-- ==== Sys2Proof/Word.lean ====
section
/-! DEFINITION. The words of KMAU: the 32-bit word of the host port (R44, R52) and a byte lane of it (R57). What a W-bit
data register holds is an unsigned integer (R21: "holding unsigned integers in `[0, 2^W)`") and is a plain Nat: all
arithmetic of the spec is exact on integers (R9, R15), so nothing wraps and the width is not in the type. That every
register stays below `2^W` is the invariant Sys2Proof.Safety.InRange (log 9). -/
namespace Sys2Proof

/-- A word of the 32-bit host port, of `CMD`, and one limb of a data register (R16, R44). -/
abbrev BusWord := BitVec 32

/-- One byte lane of a bus word (R57). -/
abbrev Byte := BitVec 8

end Sys2Proof
end

