-- ==== Sys2Proof/Config.lean ====
section
/-! DEFINITION. What one instance of KMAU fixes (R6), and the values the spec leaves open, as constants without a
body: nothing in Lean can evaluate them, so a statement about one holds for every value of it. -/
namespace Sys2Proof

/-- The parameters fixed for one instance (R6). They are carried in the state so that a statement about every state
holds for every legal `W` and `BASE`; no step changes them (log 1). -/
structure Params where
  /-- `L`, the number of 32-bit limbs of a data register: 1 to 64 (R6). -/
  limbs : Nat
  /-- `BASE`, the byte address of the register window: a multiple of 4096 (R6, R51). -/
  base : Nat
deriving DecidableEq, Repr

/-- `W = 32 · L` (R6). -/
def Params.width (p : Params) : Nat := 32 * p.limbs

/-- The reference instance: `W = 256` is the spec's reference value (R6); `BASE` is left to the platform, and 0 is
this model's DESIGN CHOICE (log 1). -/
def Params.reference : Params := { limbs := 8, base := 0 }

/-- FREE VALUE: the random stream `rho` past the injected words (R6, R45; log 2). The port takes it modulo `2^W`. -/
opaque Config.rho : Nat → Nat

/-- FREE VALUE: what the `n`-th read of a result register during `BUSY = 1` returns (R215, U20; log 5). -/
opaque Config.busyRead : Nat → BusWord

/-- FREE VALUE: how many random words an MRMULTI abandoned by a reset had already taken, before the spec's bound is
applied (R212, U21; log 4). -/
opaque Config.abandonedDraws : Nat → Nat

end Sys2Proof
end

