-- ==== Sys2Proof/Syntax.lean ====
section
/-! DEFINITION. The seven commands of KMAU, one constructor per row of spec/opcode_table.json. -/
namespace Sys2Proof

/-- The commands (R75). Operands are the fixed registers `A`, `B`, `N` (R23, R73); the one immediate is MRMULTI's
`ROUNDS` (R72). -/
inductive Instr where
  /-- `(A · B) mod N` (R91). -/
  | modmul
  /-- `A ^ B mod N` (R102). -/
  | modpow
  /-- `gcd(A, B)` (R111). -/
  | gcd
  /-- gcd and Bézout coefficient of `A` modulo `N` (R115). -/
  | eeinv
  /-- is `A` invertible modulo `N` (R117). -/
  | hasinv
  /-- single-base Miller–Rabin test of `N` with base `A` (R133). -/
  | mrwit
  /-- multi-base Miller–Rabin test of `N` with the requested number of rounds (R138). -/
  | mrmulti (rounds : Nat)
deriving DecidableEq, Repr

end Sys2Proof
end

