-- ==== Sys2Proof/WellFormed.lean ====
section
/-! DEFINITION. Which commands have a command word, and which parameter lists are legal. -/
namespace Sys2Proof

/-- A command has a command word exactly when its immediate fits the 8-bit field `ROUNDS` (R72, R78). -/
def Instr.wellFormed : Instr → Bool
  | .modmul => true
  | .modpow => true
  | .gcd => true
  | .eeinv => true
  | .hasinv => true
  | .mrwit => true
  | .mrmulti rounds => decide (rounds < 256)

/-- The legal parameters of an instance: `1 ≤ L ≤ 64`, `BASE` a multiple of 4096 (R6). -/
def Params.wellFormed (p : Params) : Bool :=
  decide (1 ≤ p.limbs) && decide (p.limbs ≤ 64) && decide (p.base % 4096 = 0)

end Sys2Proof
end

