-- ==== Sys2Proof/Decode.lean ====
section
/-! DEFINITION. The command word: its fields, legality, decoder and encoder (30_encoding.md), and the byte lanes of
a word (R57). -/
namespace Sys2Proof

/-- Why a command word is illegal. Every reason has the same effect, `IllegalCommand` (R76). -/
inductive IllegalWord where
  /-- `Z1 = w[31:16]` is not 0. -/
  | reservedHigh
  /-- `Z0 = w[7:4]` is not 0. -/
  | reservedLow
  /-- `OP` is 0 or 8 to 15. -/
  | reservedOp
  /-- `ROUNDS` is not 0 with `OP ≠ 7`. -/
  | roundsNotAllowed
deriving DecidableEq, Repr

/-- `OP = w[3:0]` (R70, R71). -/
def fieldOp (w : BusWord) : BitVec 4 := w.extractLsb' 0 4

/-- `Z0 = w[7:4]` (R70). -/
def fieldZ0 (w : BusWord) : BitVec 4 := w.extractLsb' 4 4

/-- `ROUNDS = w[15:8]` (R70, R72). -/
def fieldRounds (w : BusWord) : BitVec 8 := w.extractLsb' 8 8

/-- `Z1 = w[31:16]` (R70). -/
def fieldZ1 (w : BusWord) : BitVec 16 := w.extractLsb' 16 16

/-- The command an operation code names (R71, R75); `rounds` is used by MRMULTI alone. -/
def commandOfOp (op : BitVec 4) (rounds : Nat) : Option Instr :=
  match op.toNat with
  | 1 => some .modmul
  | 2 => some .modpow
  | 3 => some .gcd
  | 4 => some .eeinv
  | 5 => some .hasinv
  | 6 => some .mrwit
  | 7 => some (.mrmulti rounds)
  | _ => none

/-- The decoder: total on words, and a refusal names its reason (R74 to R76). -/
def decode (w : BusWord) : Except IllegalWord Instr :=
  if fieldZ1 w ≠ 0 then .error .reservedHigh
  else if fieldZ0 w ≠ 0 then .error .reservedLow
  else if fieldOp w ≠ 7 ∧ fieldRounds w ≠ 0 ∧ (commandOfOp (fieldOp w) 0).isSome then .error .roundsNotAllowed
  else match commandOfOp (fieldOp w) (fieldRounds w).toNat with
    | some i => .ok i
    | none => .error .reservedOp

/-- `Legal(w)` in the words of R74, beside the decoder. -/
def legalWord (w : BusWord) : Bool :=
  decide (w.toNat / 65536 = 0) && decide (w.toNat / 16 % 16 = 0) &&
    decide (1 ≤ w.toNat % 16) && decide (w.toNat % 16 ≤ 7) &&
    (decide (w.toNat % 16 = 7) || decide (w.toNat / 256 % 256 = 0))

/-- The operation code of a command (R75). -/
def opcodeOf : Instr → Nat
  | .modmul => 1
  | .modpow => 2
  | .gcd => 3
  | .eeinv => 4
  | .hasinv => 5
  | .mrwit => 6
  | .mrmulti _ => 7

/-- The encoder: the word a host script writes for a command (R75, R78: `MRMULTI r` is `r·256 + 7`). -/
def encode : Instr → BusWord
  | .modmul => 0x00000001#32
  | .modpow => 0x00000002#32
  | .gcd => 0x00000003#32
  | .eeinv => 0x00000004#32
  | .hasinv => 0x00000005#32
  | .mrwit => 0x00000006#32
  | .mrmulti rounds => BitVec.ofNat 32 (rounds * 256 + 7)

/-- Byte lane `k` of a word: bits `[8k+7:8k]` (R57). -/
def byteLane (w : BusWord) (k : Nat) : Byte := w.extractLsb' (8 * k) 8

/-- The word four byte lanes make, lowest address first (R57). -/
def wordOfLanes (b0 b1 b2 b3 : Byte) : BusWord := b3 ++ b2 ++ b1 ++ b0

/-- Decoding from the bytes of a byte-addressed bus, little-endian (R57): the command and the bytes left over; none for
fewer than four bytes or an illegal word. -/
def decodeBytes : List Byte → Option (Instr × List Byte)
  | b0 :: b1 :: b2 :: b3 :: rest =>
    match decode (wordOfLanes b0 b1 b2 b3) with
    | .ok i => some (i, rest)
    | .error _ => none
  | _ => none

/-- The command word of an opcode-table row whose first `nbits` bits are `w`: the bits above are 0. None where it does
not fit the one 32-bit word a command has. -/
def tableWord (nbits w : Nat) : Option BusWord :=
  let v := w % 2 ^ nbits
  if v < 2 ^ 32 then some (BitVec.ofNat 32 v) else none

/-- What the decoder reads from a table row's word. -/
def decodeTableWord (nbits w : Nat) : Option Instr :=
  match tableWord nbits w with
  | some word =>
    match decode word with
    | .ok i => some i
    | .error _ => none
  | none => none

end Sys2Proof
end

