-- ==== Sys2Proof/Machine/State.lean ====
section
/-! DEFINITION. The whole state of one KMAU instance as plain data (10_state.md R20), what its run depends on (the
parameters, the random stream, the turns of the other agents), and the state right after reset (R47). -/
namespace Sys2Proof.Machine

/-- The error codes of `STATUS.ERR` (R180). Codes 5 to 15 are never written and have no constructor. -/
inductive ErrCode where
  /-- code 0: no error -/
  | none
  /-- code 1: a `CMD` write of an illegal word (R181) -/
  | illegalCommand
  /-- code 2: a modulus below 2 at issue (R182) -/
  | domainViolation
  /-- code 3: EEINV ended with a gcd other than 1 (R185) -/
  | notInvertible
  /-- code 4: reserved for host sequences, never written by the hardware (R187) -/
  | exhausted
deriving DecidableEq, Repr

/-- The five W-bit data registers the host can name (R20). -/
inductive DataReg where
  | a | b | n | r0 | r1
deriving DecidableEq, Repr

/-- `STATUS` (R29). Its reserved bits read 0 and have no storage (log 23). -/
structure Status where
  /-- bit 0: a command runs (R30) -/
  busy : Bool
  /-- bit 1: a command has ended or was refused (R31) -/
  done : Bool
  /-- bit 2: a `CMD` write was dropped (R32) -/
  ovr : Bool
  /-- bits 7:4: the error code of the last ended command (R33) -/
  err : ErrCode
deriving DecidableEq, Repr

/-- `CTRL` (R34). `SRST` is an action and reads 0; reserved bits read 0 and have no storage (log 23). -/
structure Ctrl where
  /-- bit 0: interrupt enable -/
  ie : Bool
deriving DecidableEq, Repr

/-- Working registers of the exponentiation engine (R38). -/
structure PowRegs where
  acc : Nat
  base : Nat
  ex : Nat
deriving DecidableEq, Repr

/-- Working registers of the Euclidean unit (R39), the coefficients kept reduced (R114). -/
structure EuclidRegs where
  r0 : Nat
  r1 : Nat
  x0 : Nat
  x1 : Nat
  q : Nat
deriving DecidableEq, Repr

/-- Working registers of the Miller–Rabin tester (R40). -/
structure TesterRegs where
  /-- the power of two in `n − 1`, a count up to `W` -/
  k : Nat
  /-- the odd part of `n − 1` -/
  q : Nat
  t : Nat
  /-- the squaring counter -/
  i : Nat
  /-- the round counter -/
  j : BitVec 8
  /-- the effective round count -/
  re : BitVec 8
  /-- the bases already drawn for the current candidate, oldest first -/
  used : List Nat
deriving DecidableEq, Repr

/-- All hidden working registers (R38 to R40). -/
structure Working where
  pow : PowRegs
  euclid : EuclidRegs
  tester : TesterRegs
deriving DecidableEq, Repr

/-- One access on the host port: `MemRead(addr, n)` or `MemWrite(addr, n, v)` (R11). `size` is in bytes; the data of a
write whose size is not 4 never matters (R52; log 20). -/
inductive Access where
  | read (addr size : Nat)
  | write (addr size : Nat) (data : BusWord)
deriving DecidableEq, Repr

/-- One turn of one agent (R14, R59). -/
inductive Event where
  /-- the host port presents an access -/
  | access (a : Access)
  /-- the engine may take its step -/
  | engine
  /-- the input `rst` is asserted (`true`) or released (`false`) (R210) -/
  | rst (asserted : Bool)
  /-- the random source starts or stops answering (R45) -/
  | source (answers : Bool)
deriving DecidableEq, Repr

/-- What the host port last answered: the port is an output (log 15). -/
inductive PortAnswer where
  /-- nothing has been asked yet -/
  | idle
  /-- a read's data -/
  | data (w : BusWord)
  /-- a legal write was taken, with or without an effect -/
  | written
  /-- the access was not 4 bytes wide or not aligned (R52, R183) -/
  | busError
  /-- `rst` is asserted: no access is served (R210; log 13) -/
  | notServed
  /-- the address lies outside the window: not an access to KMAU (R51; log 14) -/
  | notSelected
deriving DecidableEq, Repr

/-- The reasons KMAU's step has no successor. Every error the spec describes is a next state; these two occur only in
states that no run reaches (`Sys2Proof.Safety.Inv` excludes them). -/
inductive Fault where
  /-- Raised by the engine's turn when `BUSY = 1` and the latched `OP` names none of the seven commands: `Exec` of R42 has
  no such case. Safe: R43 latches legal words only (log 16). -/
  | noCommand
  /-- Raised by a command other than GCD that completes with `OPN < 2`: R90, R100, R113 and R131 are not defined there and
  "no rule evaluates it there". Safe: R43 refuses such a command at issue (log 17). -/
  | modulusBelowTwo
deriving DecidableEq, Repr

/-- The reasons the model gives no meaning. -/
inductive Refusal where
  /-- Raised by an arm of `exec` whose command has no meaning yet. Safe. No arm of this model raises it. -/
  | notModelled (mnemonic : String)
deriving DecidableEq, Repr

/-- The state (R20), in the spec's order, then what the run depends on. -/
structure State where
  /-- `W` and `BASE`; never changed by a step (R6; log 1) -/
  params : Params
  /-- operand register `A` (R21) -/
  regA : Nat
  /-- operand register `B` (R21) -/
  regB : Nat
  /-- operand register `N` (R21) -/
  regN : Nat
  /-- result register `R0` (R22) -/
  regR0 : Nat
  /-- result register `R1` (R22) -/
  regR1 : Nat
  /-- `CMD` (R28) -/
  cmd : BusWord
  /-- `STATUS` (R29) -/
  status : Status
  /-- `CTRL` (R34) -/
  ctrl : Ctrl
  /-- the latched operation code `OP` (R37) -/
  op : BitVec 4
  /-- the latched rounds `RNDS` (R37) -/
  rnds : BitVec 8
  /-- the latched operand `OPA` (R37) -/
  opA : Nat
  /-- the latched operand `OPB` (R37) -/
  opB : Nat
  /-- the latched operand `OPN` (R37) -/
  opN : Nat
  /-- the hidden working registers (R38 to R40) -/
  work : Working
  /-- the level of the input `rst` (R44, R210; log 13) -/
  rstLine : Bool
  /-- the random source answers (R45; log 3) -/
  sourceAnswers : Bool
  /-- the injected words `rho[0], rho[1], …`; the rest of the stream is free (R45; log 2) -/
  rhoWords : List Nat
  /-- the cursor `c` into the stream (R45) -/
  cursor : Nat
  /-- the model's own counter of free values used (log 5) -/
  draws : Nat
  /-- the model's own: the turns still to come, in their order (R59; log 6) -/
  agenda : List Event
  /-- what the host port last answered (log 15) -/
  port : PortAnswer
deriving DecidableEq, Repr

/-- The working registers after reset: all 0, `USED` empty (R47). -/
def Working.reset : Working :=
  { pow := { acc := 0, base := 0, ex := 0 },
    euclid := { r0 := 0, r1 := 0, x0 := 0, x1 := 0, q := 0 },
    tester := { k := 0, q := 0, t := 0, i := 0, j := 0, re := 0, used := [] } }

/-- The machine right after reset: every register at R47's value. The instance is the reference one, nothing is
injected or scheduled, and the random source answers (DESIGN CHOICE, log 18). -/
def State.reset : State :=
  { params := Params.reference,
    regA := 0, regB := 0, regN := 0, regR0 := 0, regR1 := 0,
    cmd := 0,
    status := { busy := false, done := false, ovr := false, err := .none },
    ctrl := { ie := false },
    op := 0, rnds := 0, opA := 0, opB := 0, opN := 0,
    work := Working.reset,
    rstLine := false, sourceAnswers := true, rhoWords := [], cursor := 0, draws := 0,
    agenda := [], port := .idle }

end Sys2Proof.Machine
end

