-- ==== Sys2Proof/Machine/Operands.lean ====
section
/-! DEFINITION. Operands: the limbs of a W-bit register (R24, R54, R57), the random words (R45), and the register
window's address map (R51 to R53, R56). -/
namespace Sys2Proof.Machine

/-- `X.limb[i]`: bits `[32i+31:32i]` of a data register's value (R10, R24). -/
def limbOf (v : Nat) (i : Nat) : BusWord := BitVec.ofNat 32 (v / 2 ^ (32 * i))

/-- `X.limb[i] <- w`: the value with limb `i` replaced and every other limb kept (R10, R54). -/
def withLimb (v : Nat) (i : Nat) (w : BusWord) : Nat :=
  v / 2 ^ (32 * (i + 1)) * 2 ^ (32 * (i + 1)) + w.toNat * 2 ^ (32 * i) + v % 2 ^ (32 * i)

/-- `bitlen(v)`: 0 for 0, else the position of the highest set bit plus 1 (R8). -/
def bitlen (v : Nat) : Nat := if v = 0 then 0 else Nat.log2 v + 1

/-- Every operand and result is below `2^W` (R7). -/
def State.bound (s : State) : Nat := 2 ^ s.params.width

/-- The word of the random stream at position `c`: the injected one, else the free one; the port delivers W bits
(R45; log 2). -/
def State.rho (s : State) (c : Nat) : Nat := (s.rhoWords[c]?).getD (Config.rho c) % s.bound

/-- The value of a data register (R21, R22). -/
def State.dataReg (s : State) : DataReg → Nat
  | .a => s.regA
  | .b => s.regB
  | .n => s.regN
  | .r0 => s.regR0
  | .r1 => s.regR1

/-- Window offset of limb 0 of a data register (R53). -/
def limbBase : DataReg → Nat
  | .a => 0x100
  | .b => 0x200
  | .n => 0x300
  | .r0 => 0x400
  | .r1 => 0x500

/-- A location of the register window (R53). -/
inductive Location where
  | cmd
  | status
  | ctrl
  | cap
  | limb (r : DataReg) (i : Nat)
  /-- a reserved offset, or a limb at or above `L` (R56) -/
  | reserved
deriving DecidableEq, Repr

/-- Limb `i` of register `r`, if the instance has it (R56). -/
def limbLocation (limbs : Nat) (r : DataReg) (i : Nat) : Location :=
  if i < limbs then .limb r i else .reserved

/-- The address map, for an aligned offset (R53, R56). -/
def locate (limbs off : Nat) : Location :=
  if off = 0x000 then .cmd
  else if off = 0x004 then .status
  else if off = 0x008 then .ctrl
  else if off = 0x00C then .cap
  else if off < 0x100 then .reserved
  else if off < 0x200 then limbLocation limbs .a ((off - 0x100) / 4)
  else if off < 0x300 then limbLocation limbs .b ((off - 0x200) / 4)
  else if off < 0x400 then limbLocation limbs .n ((off - 0x300) / 4)
  else if off < 0x500 then limbLocation limbs .r0 ((off - 0x400) / 4)
  else if off < 0x600 then limbLocation limbs .r1 ((off - 0x500) / 4)
  else .reserved

/-- The byte address of an access (R11). -/
def accessAddr : Access → Nat
  | .read addr _ => addr
  | .write addr _ _ => addr

/-- The width of an access in bytes (R11). -/
def accessSize : Access → Nat
  | .read _ size => size
  | .write _ size _ => size

/-- `off = addr − BASE` for an address in the 4096-byte window (R51). -/
def windowOffset (p : Params) (addr : Nat) : Option Nat :=
  if p.base ≤ addr ∧ addr < p.base + 4096 then some (addr - p.base) else none

/-- The only legal access is 4 bytes wide at an offset that is a multiple of 4 (R52). -/
def legalAccess (size off : Nat) : Bool := decide (size = 4) && decide (off % 4 = 0)

end Sys2Proof.Machine
end

