-- ==== Sys2Proof/Machine/Flags.lean ====
section
/-! DEFINITION. The status and control words as the host reads and writes them, the error codes and the interrupt
line (R28 to R36, R46, R180, R184). KMAU has no arithmetic flags (R36). -/
namespace Sys2Proof.Machine

/-- The number of an error code (R180). -/
def errBits : ErrCode → BitVec 4
  | .none => 0
  | .illegalCommand => 1
  | .domainViolation => 2
  | .notInvertible => 3
  | .exhausted => 4

/-- One flag as a word with that flag's bit. -/
def flagBit (flag : Bool) (place : Nat) : BusWord := if flag then 1#32 <<< place else 0#32

/-- `STATUS` as the host reads it: `BUSY` bit 0, `DONE` bit 1, `OVR` bit 2, `ERR` bits 7:4, the rest 0 (R29). -/
def statusWord (st : Status) : BusWord :=
  flagBit st.busy 0 ||| flagBit st.done 1 ||| flagBit st.ovr 2 ||| ((errBits st.err).setWidth 32 <<< 4)

/-- `CTRL` as the host reads it: `IE` bit 0, the rest 0 (R34). -/
def ctrlWord (c : Ctrl) : BusWord := flagBit c.ie 0

/-- `CAP`: `L` in bits 7:0, the rest 0 (R35). -/
def State.cap (s : State) : BusWord := BitVec.ofNat 32 (s.params.limbs % 256)

/-- `irq = CTRL.IE and STATUS.DONE` (R46, R184). -/
def State.irq (s : State) : Bool := s.ctrl.ie && s.status.done

/-- A host write to `STATUS`: bits 1 and 2 are write-1-to-clear, every other bit is ignored (R29). -/
def clearFlags (v : BusWord) (st : Status) : Status :=
  { st with done := st.done && !v.getLsbD 1, ovr := st.ovr && !v.getLsbD 2 }

/-- The flags an accepted `CMD` write clears first (R43, first lines). `BUSY` is 0 there and `OVR` is kept. -/
def openIssue (st : Status) : Status := { st with done := false, err := .none }

/-- The flags an error at issue leaves (R43, R186). -/
def failIssue (code : ErrCode) (st : Status) : Status := { st with done := true, err := code }

/-- The flags a started command leaves (R43, last line). -/
def startRun (st : Status) : Status := { st with busy := true }

/-- The flags the completion step leaves (R42). -/
def endRun (code : ErrCode) (st : Status) : Status := { st with busy := false, done := true, err := code }

end Sys2Proof.Machine
end

