-- ==== Sys2Proof/Machine/Ops.lean ====
section
/-! DEFINITION. The operations every command and every host access is made of: issue (R43), error entry and
acknowledge (R186, R190), completion (R42), reset (R47, R210 to R212). -/
namespace Sys2Proof.Machine

/-- One turn of the agenda has been taken. -/
def advance (s : State) : State := { s with agenda := s.agenda.tail }

/-- The host port answers. -/
def answer (p : PortAnswer) (s : State) : State := { s with port := p }

/-- ERROR ENTRY at issue, `raise <Error>` (R12, R186): results zeroed, the code reported, `DONE` set, `BUSY` untouched.
Nothing is saved and control goes nowhere. -/
def raiseAtIssue (code : ErrCode) (s : State) : State :=
  { s with regR0 := 0, regR1 := 0, status := failIssue code s.status }

/-- A host write to `STATUS` (R29). Writing 1 to bit 1 is the acknowledge, the nearest thing to a return from an error:
it clears `DONE` and leaves `ERR`; nothing is restored because nothing was saved (R190). -/
def writeStatus (v : BusWord) (s : State) : State := { s with status := clearFlags v s.status }

/-- The commands with a domain check: every one but GCD (R43: `w[3:0] ≠ 3`). -/
def needsModulus : Instr → Bool
  | .modmul => true
  | .modpow => true
  | .gcd => false
  | .eeinv => true
  | .hasinv => true
  | .mrwit => true
  | .mrmulti _ => true

/-- The first lines of R43: the word is stored and the last outcome's flags are cleared. -/
def storeCommand (w : BusWord) (s : State) : State := { s with cmd := w, status := openIssue s.status }

/-- The command and all three operands are copied at the instant of the `CMD` write (R37, R43). -/
def latch (w : BusWord) (s : State) : State :=
  { s with op := fieldOp w, rnds := fieldRounds w, opA := s.regA, opB := s.regB, opN := s.regN }

/-- COMMAND ISSUE of a legal word while `BUSY = 0` (R43): latch, then the domain check on `N`, then start. The access
is the host's turn, and the port takes the write. -/
def issue (i : Instr) (s : State) : State :=
  let t := latch (encode i) (storeCommand (encode i) (answer .written (advance s)))
  if needsModulus i ∧ s.regN < 2 then raiseAtIssue .domainViolation t
  else { t with status := startRun t.status }

/-- Command issue of an illegal word while `BUSY = 0` (R43, R76, R181): the word is stored, nothing is latched. -/
def refuseWord (w : BusWord) (s : State) : State :=
  raiseAtIssue .illegalCommand (storeCommand w (answer .written (advance s)))

/-- A `CMD` write while `BUSY = 1` is dropped and `OVR` is set (R28, R32, R188). -/
def dropWord (s : State) : State :=
  { answer .written (advance s) with status := { s.status with ovr := true } }

/-- What `Exec` of R42 delivers, with the hidden registers its unit leaves and the cursor after its draws. -/
structure UnitResult where
  r0 : Nat
  r1 : Nat
  err : ErrCode
  work : Working
  cursor : Nat
deriving DecidableEq, Repr

/-- A result without error, second value or draw: `R1 <- 0`, `ERR <- 0`. -/
def plainResult (r0 : Nat) (work : Working) (s : State) : UnitResult :=
  { r0 := r0, r1 := 0, err := .none, work := work, cursor := s.cursor }

/-- COMPLETION STEP (R42): results, error code, `BUSY <- 0`, `DONE <- 1`, as one state change in the engine's turn. -/
def complete (u : UnitResult) (s : State) : State :=
  { advance s with
    regR0 := u.r0, regR1 := u.r1, status := endRun u.err s.status, work := u.work, cursor := u.cursor }

/-- The two phases of a command (R48; log 8): issue while idle, completion by its unit while busy. A command that needs
a modulus has none to complete with below 2 (log 17). -/
def runCommand (i : Instr) (unit : State → UnitResult) (s : State) : Host.Outcome State Fault Refusal :=
  if s.status.busy then
    if needsModulus i ∧ s.opN < 2 then .fault .modulusBelowTwo
    else .next (complete (unit s) s)
  else .next (issue i s)

/-- Effective number of rounds `re = min(rounds, n − 2)` (R135). -/
def effectiveRounds (n : Nat) (rounds : Nat) : Nat := min rounds (n - 2)

/-- The cursor after a reset: unchanged (R47), but for the words an abandoned MRMULTI had already taken, any number from
0 to `min(RNDS, OPN − 2)` (R212; FREE VALUE, log 4). -/
def cursorAfterReset (s : State) : Nat :=
  if s.status.busy ∧ s.op = 7 then
    s.cursor + Config.abandonedDraws s.draws % (effectiveRounds s.opN s.rnds.toNat + 1)
  else s.cursor

/-- RESET, hard and soft alike (R47, R210, R211): every piece of hardware state at R47's value; the parameters, the
random source, the other agents' turns and the port stay. -/
def resetHardware (s : State) : State :=
  { s with
    regA := 0, regB := 0, regN := 0, regR0 := 0, regR1 := 0,
    cmd := 0,
    status := { busy := false, done := false, ovr := false, err := .none },
    ctrl := { ie := false },
    op := 0, rnds := 0, opA := 0, opB := 0, opN := 0,
    work := { pow := { acc := 0, base := 0, ex := 0 },
              euclid := { r0 := 0, r1 := 0, x0 := 0, x1 := 0, q := 0 },
              tester := { k := 0, q := 0, t := 0, i := 0, j := 0, re := 0, used := [] } },
    cursor := cursorAfterReset s,
    draws := s.draws + 1 }

/-- A host write to `CTRL` (R34): bit 1 set is the soft reset whatever bit 0 is, else `IE` takes bit 0. -/
def writeCtrl (v : BusWord) (s : State) : State :=
  if v.getLsbD 1 then resetHardware s else { s with ctrl := { ie := v.getLsbD 0 } }

/-- A host write to limb `i` of a data register: operands take it (R54), results ignore it (R55). -/
def writeLimb (r : DataReg) (i : Nat) (v : BusWord) (s : State) : State :=
  match r with
  | .a => { s with regA := withLimb s.regA i v }
  | .b => { s with regB := withLimb s.regB i v }
  | .n => { s with regN := withLimb s.regN i v }
  | .r0 => s
  | .r1 => s

/-- The input `rst` changes (R210): asserting it resets KMAU, releasing it leaves KMAU idle. -/
def rstTurn (asserted : Bool) (s : State) : State :=
  if asserted then { resetHardware (advance s) with rstLine := true }
  else { advance s with rstLine := false }

/-- The random source starts or stops answering (R45). -/
def sourceTurn (answers : Bool) (s : State) : State := { advance s with sourceAnswers := answers }

end Sys2Proof.Machine
end

