-- ==== Sys2Proof/Machine/Modmul.lean ====
section
/-! DEFINITION. The modular multiplication unit: MODMUL (40_modular_multiplication.md). -/
namespace Sys2Proof.Machine

/-- `ModMul(a, b, n) = (a · b) mod n`, the exact product reduced; any method that returns exactly this is allowed
(R90, R92). -/
def modMul (a b n : Nat) : Nat := a * b % n

/-- MODMUL's outcome (R91). The unit has no named working register. -/
def modmulUnit (s : State) : UnitResult := plainResult (modMul s.opA s.opB s.opN) s.work s

/-- MODMUL (R91). -/
def execModmul (s : State) : Host.Outcome State Fault Refusal := runCommand .modmul modmulUnit s

end Sys2Proof.Machine
end

