-- ==== Sys2Proof/Machine/Euclid.lean ====
section
/-! DEFINITION. The extended Euclidean GCD and inverse unit: GCD, EEINV, HASINV (42_euclid_gcd_inverse.md). -/
namespace Sys2Proof.Machine

/-- `while b ≠ 0: (a, b) = (b, a mod b)` of R110 on the registers `r0`, `r1` (log 12); the first argument bounds the
rounds. -/
def gcdLoop : Nat → EuclidRegs → EuclidRegs
  | 0, e => e
  | rounds + 1, e => if e.r1 = 0 then e else gcdLoop rounds { e with r0 := e.r1, r1 := e.r0 % e.r1 }

/-- The unit's run for `Gcd(a, b)`: `r1` strictly decreases, so `b` rounds are enough (R221). -/
def gcdRun (a b : Nat) (e : EuclidRegs) : EuclidRegs := gcdLoop b { e with r0 := a, r1 := b }

/-- `(u − v) mod n` for `0 ≤ u, v < n` (R114). -/
def subMod (u v n : Nat) : Nat := if v ≤ u then u - v else u + n - v

/-- One division step, the coefficients kept reduced (R113, R114). -/
def extRound (n : Nat) (e : EuclidRegs) : EuclidRegs :=
  let q := e.r0 / e.r1
  { r0 := e.r1, r1 := e.r0 - q * e.r1, x0 := e.x1, x1 := subMod e.x0 (modMul q e.x1 n) n, q := q }

/-- `while r1 ≠ 0` of R113; the first argument bounds the rounds. -/
def extLoop : Nat → Nat → EuclidRegs → EuclidRegs
  | 0, _, e => e
  | rounds + 1, n, e => if e.r1 = 0 then e else extLoop rounds n (extRound n e)

/-- The unit's run for `ExtEuclid(b, n)`, in the form R114 gives its registers: `r0` ends as the gcd and `x0` as the
coefficient. `r1` starts at `n` and strictly decreases, so `n` rounds are enough (R221). -/
def extRun (b n : Nat) (q : Nat) : EuclidRegs := extLoop n n { r0 := b, r1 := n, x0 := 1, x1 := 0, q := q }

/-- R113's loop over signed integers, beside the reduced form the machine runs: `(r0, r1, x0, x1)`. -/
def signedLoop : Nat → Int × Int × Int × Int → Int × Int × Int × Int
  | 0, e => e
  | rounds + 1, (r0, r1, x0, x1) =>
    if r1 = 0 then (r0, r1, x0, x1)
    else signedLoop rounds (r1, r0 - r0 / r1 * r1, x1, x0 - r0 / r1 * x1)

/-- `ExtEuclid(b, n)` in R113's signed form: `(g, x)` with `x = x0 mod n` floored (R9). -/
def extEuclidSigned (b n : Nat) : Int × Int :=
  let e := signedLoop n ((b : Int), (n : Int), 1, 0)
  (e.1, e.2.2.1 % (n : Int))

/-- GCD's outcome (R111). -/
def gcdUnit (s : State) : UnitResult :=
  let e := gcdRun s.opA s.opB s.work.euclid
  plainResult e.r0 { s.work with euclid := e } s

/-- GCD (R111): the one command with no domain check and no error. -/
def execGcd (s : State) : Host.Outcome State Fault Refusal := runCommand .gcd gcdUnit s

/-- EEINV's outcome (R115): both values in every case, and `NotInvertible` when the gcd is not 1 (R185). -/
def eeinvUnit (s : State) : UnitResult :=
  let e := extRun s.opA s.opN s.work.euclid.q
  { r0 := e.r0, r1 := e.x0, err := if e.r0 = 1 then .none else .notInvertible,
    work := { s.work with euclid := e }, cursor := s.cursor }

/-- EEINV (R115). -/
def execEeinv (s : State) : Host.Outcome State Fault Refusal := runCommand .eeinv eeinvUnit s

/-- HASINV's outcome (R117): the same algorithm, the coefficient not exposed. -/
def hasinvUnit (s : State) : UnitResult :=
  let e := extRun s.opA s.opN s.work.euclid.q
  plainResult (if e.r0 = 1 then 1 else 0) { s.work with euclid := e } s

/-- HASINV (R117). -/
def execHasinv (s : State) : Host.Outcome State Fault Refusal := runCommand .hasinv hasinvUnit s

end Sys2Proof.Machine
end

