-- ==== Sys2Proof/Machine/Modpow.lean ====
section
/-! DEFINITION. The modular exponentiation engine: MODPOW (41_modular_exponentiation.md). -/
namespace Sys2Proof.Machine

/-- One round of the binary method: multiply when the current bit is 1, square the base, halve the exponent (R101). -/
def powRound (n : Nat) (p : PowRegs) : PowRegs :=
  { acc := if p.ex % 2 = 1 then modMul p.acc p.base n else p.acc,
    base := modMul p.base p.base n,
    ex := p.ex / 2 }

/-- `while ex ≠ 0` of R101; the first argument bounds the rounds. -/
def powLoop : Nat → Nat → PowRegs → PowRegs
  | 0, _, p => p
  | rounds + 1, n, p => if p.ex = 0 then p else powLoop rounds n (powRound n p)

/-- The engine's run for `a^e mod n`: `bitlen(e)` rounds (R101, R103). -/
def powRun (a e n : Nat) : PowRegs := powLoop (bitlen e) n { acc := 1, base := a, ex := e }

/-- `ModPow(a, e, n)`, computed as R101. -/
def modPow (a e n : Nat) : Nat := (powRun a e n).acc

/-- MODPOW's outcome (R102). -/
def modpowUnit (s : State) : UnitResult :=
  let p := powRun s.opA s.opB s.opN
  plainResult p.acc { s.work with pow := p } s

/-- MODPOW (R102). -/
def execModpow (s : State) : Host.Outcome State Fault Refusal := runCommand .modpow modpowUnit s

end Sys2Proof.Machine
end

