-- ==== Sys2Proof/Machine/MillerRabin.lean ====
section
/-! DEFINITION. The Miller–Rabin primality tester: MRWIT, MRMULTI (43_miller_rabin.md). -/
namespace Sys2Proof.Machine

/-- The number of trailing zero bits; the first argument bounds the bits looked at (R130). -/
def trailingZeros : Nat → Nat → Nat
  | 0, _ => 0
  | bits + 1, m => if m % 2 = 0 then trailingZeros bits (m / 2) + 1 else 0

/-- `Decomp(n) = (k, q)` with `n − 1 = 2^k · q`, `q` odd (R130). -/
def decomp (n : Nat) : Nat × Nat :=
  let k := trailingZeros (bitlen (n - 1)) (n - 1)
  (k, (n - 1) / 2 ^ k)

/-- The end of a squaring loop: the answer, `t`, and the squarings done. -/
structure SquareEnd where
  answer : Nat
  t : Nat
  i : Nat
deriving DecidableEq, Repr

/-- `for i = 1 to k − 1` of R131; the first argument counts the squarings left. -/
def squareLoop : Nat → Nat → Nat → Nat → SquareEnd
  | 0, _, t, i => { answer := 1, t := t, i := i }
  | left + 1, n, t, i =>
    if modMul t t n = n - 1 then { answer := 0, t := modMul t t n, i := i + 1 }
    else squareLoop left n (modMul t t n) (i + 1)

/-- The end of one single-base test: its answer and the registers it leaves. -/
structure Trial where
  answer : Nat
  pow : PowRegs
  k : Nat
  q : Nat
  t : Nat
  i : Nat
deriving DecidableEq, Repr

/-- The single-base test of `n` with `base` (R131); the power is taken by the exponentiation engine (R40). -/
def trial (n base : Nat) : Trial :=
  let d := decomp n
  let p := powRun base d.2 n
  if p.acc = 1 ∨ p.acc = n - 1 then { answer := 0, pow := p, k := d.1, q := d.2, t := p.acc, i := 0 }
  else
    let e := squareLoop (d.1 - 1) n p.acc 0
    { answer := e.answer, pow := p, k := d.1, q := d.2, t := e.t, i := e.i }

/-- `MRWitness(n, base)`: 1 composite (a witness was found), 0 not proven composite (R131). -/
def mrWitness (n base : Nat) : Nat := (trial n base).answer

/-- The registers a single-base test leaves in the engine and the tester (R40; log 10). -/
def storeTrial (tr : Trial) (w : Working) : Working :=
  { w with pow := tr.pow, tester := { w.tester with k := tr.k, q := tr.q, t := tr.t, i := tr.i } }

/-- `while c is in USED` of R137: the next value, wrapping inside `[2, n − 1]`; the first argument bounds the steps. -/
def stepUnused : Nat → Nat → List Nat → Nat → Nat
  | 0, _, _, c => c
  | steps + 1, n, used, c =>
    if c ∈ used then stepUnused steps n used (if c = n - 1 then 2 else c + 1) else c

/-- `DrawBase(n, USED)` from the random word `r` (R137); at most `|USED|` steps. -/
def drawBase (n : Nat) (used : List Nat) (r : Nat) : Nat :=
  stepUnused used.length n used (2 + r % (n - 2))

/-- Where a multi-base test stands: rounds passed, bases drawn, cursor, and the registers of the last trial. -/
structure Multi where
  answer : Nat
  j : Nat
  used : List Nat
  cursor : Nat
  work : Working
deriving DecidableEq, Repr

/-- The rounds of R136; the first argument counts the rounds left. One word of the stream is taken per round. -/
def multiLoop : Nat → Nat → (Nat → Nat) → Multi → Multi
  | 0, _, _, m => { m with answer := 1 }
  | left + 1, n, rho, m =>
    let b := drawBase n m.used (rho m.cursor)
    let tr := trial n b
    let drawn := { m with used := m.used ++ [b], cursor := m.cursor + 1, work := storeTrial tr m.work }
    if tr.answer = 1 then { drawn with answer := 0 }
    else multiLoop left n rho { drawn with j := m.j + 1 }

/-- `MRMulti(n, rounds, rho)` from cursor `c` (R135, R136). -/
def mrMulti (n rounds : Nat) (rho : Nat → Nat) (c : Nat) (w : Working) : Multi :=
  multiLoop (effectiveRounds n rounds) n rho { answer := 1, j := 0, used := [], cursor := c, work := w }

/-- The registers a multi-base test leaves (R40). -/
def storeMulti (re : Nat) (m : Multi) : Working :=
  { m.work with tester :=
      { m.work.tester with j := BitVec.ofNat 8 m.j, re := BitVec.ofNat 8 re, used := m.used } }

/-- MRWIT's outcome (R133): no random word is drawn. -/
def mrwitUnit (s : State) : UnitResult :=
  let tr := trial s.opN s.opA
  plainResult tr.answer (storeTrial tr s.work) s

/-- MRWIT (R133). -/
def execMrwit (s : State) : Host.Outcome State Fault Refusal := runCommand .mrwit mrwitUnit s

/-- MRMULTI's outcome (R138). -/
def mrmultiUnit (s : State) : UnitResult :=
  let m := mrMulti s.opN s.rnds.toNat s.rho s.cursor s.work
  { r0 := m.answer, r1 := 0, err := .none,
    work := storeMulti (effectiveRounds s.opN s.rnds.toNat) m, cursor := m.cursor }

/-- The running MRMULTI needs a random word and the source does not answer: the engine's step is not enabled (R45;
log 3). A test with no round draws nothing (R139). -/
def waitsForSource (s : State) : Bool :=
  s.status.busy && !s.sourceAnswers && decide (0 < effectiveRounds s.opN s.rnds.toNat)

/-- MRMULTI (R138). While the source does not answer, the command stays `BUSY` (R45). -/
def execMrmulti (rounds : Nat) (s : State) : Host.Outcome State Fault Refusal :=
  if waitsForSource s then .next (advance s) else runCommand (.mrmulti rounds) mrmultiUnit s

end Sys2Proof.Machine
end

