-- ==== Sys2Proof/Machine/Dispatch.lean ====
section
/-! DEFINITION. One arm per command: a direct call of its meaning. -/
namespace Sys2Proof.Machine

def exec (i : Instr) (s : State) : Host.Outcome State Fault Refusal :=
  match i with
  | .modmul => Sys2Proof.Machine.execModmul s
  | .modpow => Sys2Proof.Machine.execModpow s
  | .gcd => Sys2Proof.Machine.execGcd s
  | .eeinv => Sys2Proof.Machine.execEeinv s
  | .hasinv => Sys2Proof.Machine.execHasinv s
  | .mrwit => Sys2Proof.Machine.execMrwit s
  | .mrmulti rounds => Sys2Proof.Machine.execMrmulti rounds s

end Sys2Proof.Machine
end

