-- ==== Sys2Proof/Machine/HostPort.lean ====
section
/-! DEFINITION. The host port: reads and writes of the register window (20_memory.md), and what one turn of the agenda
asks for. -/
namespace Sys2Proof.Machine

/-- What a turn comes to: a command runs (its issue or its completion), the state changes without a command, or the
engine has no command to run. -/
inductive Turn where
  | run (i : Instr)
  | settled (t : State)
  | stuck (f : Fault)
deriving DecidableEq, Repr

/-- The value of a location (R28, R29, R34, R35, R54 to R56). -/
def readLocation (s : State) : Location → BusWord
  | .cmd => s.cmd
  | .status => statusWord s.status
  | .ctrl => ctrlWord s.ctrl
  | .cap => s.cap
  | .limb r i => limbOf (s.dataReg r) i
  | .reserved => 0

/-- A limb of `R0` or `R1` (R22). -/
def isResultLimb : Location → Bool
  | .limb .r0 _ => true
  | .limb .r1 _ => true
  | .limb .a _ => false
  | .limb .b _ => false
  | .limb .n _ => false
  | .cmd => false
  | .status => false
  | .ctrl => false
  | .cap => false
  | .reserved => false

/-- A host read: no side effect on KMAU (R58). A result limb during `BUSY = 1` reads as a fresh free value (R22, R215;
log 5). -/
def hostRead (l : Location) (s : State) : State :=
  if isResultLimb l ∧ s.status.busy then
    { s with port := .data (Config.busyRead s.draws), draws := s.draws + 1 }
  else { s with port := .data (readLocation s l) }

/-- A host write to a location other than `CMD` (R29, R34, R35, R54 to R56). -/
def hostWrite (l : Location) (v : BusWord) (s : State) : State :=
  match l with
  | .cmd => s
  | .status => writeStatus v s
  | .ctrl => writeCtrl v s
  | .cap => s
  | .limb r i => writeLimb r i v s
  | .reserved => s

/-- A host write to `CMD`, in R189's order: dropped while busy, refused if illegal, else the command is issued. -/
def cmdWrite (v : BusWord) (s : State) : Turn :=
  if s.status.busy then .settled (dropWord s)
  else match decode v with
    | .ok i => .run i
    | .error _ => .settled (refuseWord v s)

/-- An access at offset `off` of the window (R52, R53): a bus error changes nothing. -/
def windowTurn (off : Nat) (a : Access) (s : State) : Turn :=
  if legalAccess (accessSize a) off then
    match a with
    | .read _ _ => .settled (hostRead (locate s.params.limbs off) (advance s))
    | .write _ _ v =>
      if off = 0 then cmdWrite v s
      else .settled (hostWrite (locate s.params.limbs off) v (answer .written (advance s)))
  else .settled (answer .busError (advance s))

/-- The host port's turn: no access is served while `rst` is asserted (R210; log 13), and an address outside the window
is not KMAU's (R51; log 14). -/
def accessTurn (a : Access) (s : State) : Turn :=
  if s.rstLine then .settled (answer .notServed (advance s))
  else match windowOffset s.params (accessAddr a) with
    | none => .settled (answer .notSelected (advance s))
    | some off => windowTurn off a s

/-- The engine's turn: the completion of the latched command when `BUSY = 1`, else nothing (R42); no step while `rst` is
asserted (R210). -/
def engineTurn (s : State) : Turn :=
  if s.rstLine then .settled (advance s)
  else if s.status.busy then
    match commandOfOp s.op s.rnds.toNat with
    | some i => .run i
    | none => .stuck .noCommand
  else .settled (advance s)

/-- Whose turn it is (R59; log 6). With nothing scheduled the engine may move. -/
def nextTurn (s : State) : Turn :=
  match s.agenda with
  | [] => engineTurn s
  | .access a :: _ => accessTurn a s
  | .engine :: _ => engineTurn s
  | .rst asserted :: _ => .settled (rstTurn asserted s)
  | .source answers :: _ => .settled (sourceTurn answers s)

/-- The state in which the next turn is the host's write of `w` to `CMD` and the port takes it as an issue: idle, `rst`
released (log 7). -/
def placeCommand (w : BusWord) (s : State) : State :=
  { s with
    status := { s.status with busy := false }, rstLine := false,
    agenda := .access (.write s.params.base 4 w) :: s.agenda }

end Sys2Proof.Machine
end

