-- ==== Sys2Proof/Machine/Step.lean ====
section
/-! DEFINITION. One step of the system: one whole turn of one agent (R59). -/
namespace Sys2Proof.Machine

/-- One step: the next turn, a command's issue or completion going through `exec`. -/
def step (s : State) : Host.Outcome State Fault Refusal :=
  match nextTurn s with
  | .run i => exec i s
  | .settled t => .next t
  | .stuck f => .fault f

/-- `s` with the host's `CMD` write of a table row's word as the very next turn (log 7). A word longer than the 32 bits
of a command places nothing. -/
def State.withFetchWord (s : State) (nbits w : Nat) : State :=
  match tableWord nbits w with
  | some word => placeCommand word s
  | none => s

end Sys2Proof.Machine
end

