-- ==== Sys2Proof/Machine/HostScript.lean ====
section
/-! DEFINITION. The host-script notation as turns of the agenda (R78). It is a notation, not part of the hardware; `WAIT`
is shown as the completion and the one poll that ends it, as the spec's own programs show it (95_test_vectors.md). -/
namespace Sys2Proof.Machine

/-- `HostRead(off)` (R11). -/
def readAt (p : Params) (off : Nat) : Access := .read (p.base + off) 4

/-- `HostWrite(off, v)` (R11). -/
def writeAt (p : Params) (off : Nat) (v : BusWord) : Access := .write (p.base + off) 4 v

/-- `WR X, v`: one write per limb (R78). -/
def scriptWr (p : Params) (r : DataReg) (v : Nat) : List Event :=
  (List.range p.limbs).map fun i => .access (writeAt p (limbBase r + 4 * i) (limbOf v i))

/-- `RD X`: one read per limb (R78). -/
def scriptRd (p : Params) (r : DataReg) : List Event :=
  (List.range p.limbs).map fun i => .access (readAt p (limbBase r + 4 * i))

/-- A command statement (R78). -/
def scriptCommand (p : Params) (i : Instr) : List Event := [.access (writeAt p 0x000 (encode i))]

/-- `WAIT` (R78). -/
def scriptWait (p : Params) : List Event := [.engine, .access (readAt p 0x004)]

/-- `ACK` (R78). -/
def scriptAck (p : Params) : List Event := [.access (writeAt p 0x004 0x00000002#32)]

/-- `CLROVR` (R78). -/
def scriptClrovr (p : Params) : List Event := [.access (writeAt p 0x004 0x00000004#32)]

/-- `IRQ on` and `IRQ off` (R78). -/
def scriptIrq (p : Params) (on : Bool) : List Event :=
  [.access (writeAt p 0x008 (if on then 0x00000001#32 else 0x00000000#32))]

/-- `RESET` (R78). -/
def scriptReset (p : Params) : List Event := [.access (writeAt p 0x008 0x00000002#32)]

/-- `r = modMul(a, b, n)` (R79). -/
def callModMul (p : Params) (a b n : Nat) : List Event :=
  scriptWr p .a a ++ scriptWr p .b b ++ scriptWr p .n n ++ scriptCommand p .modmul ++ scriptWait p ++ scriptRd p .r0

/-- `r = modPow(base, exponent, modulus)` (R79). -/
def callModPow (p : Params) (base exponent modulus : Nat) : List Event :=
  scriptWr p .a base ++ scriptWr p .b exponent ++ scriptWr p .n modulus ++ scriptCommand p .modpow ++ scriptWait p ++
    scriptRd p .r0

/-- `r = gcd(a, b)` (R79). -/
def callGcd (p : Params) (a b : Nat) : List Event :=
  scriptWr p .a a ++ scriptWr p .b b ++ scriptCommand p .gcd ++ scriptWait p ++ scriptRd p .r0

/-- `(g, x) = extendedEuclidInverse(b, n)` (R79). -/
def callEeinv (p : Params) (b n : Nat) : List Event :=
  scriptWr p .a b ++ scriptWr p .n n ++ scriptCommand p .eeinv ++ scriptWait p ++ scriptRd p .r0 ++ scriptRd p .r1

/-- `f = hasInverse(b, n)` (R79). -/
def callHasinv (p : Params) (b n : Nat) : List Event :=
  scriptWr p .a b ++ scriptWr p .n n ++ scriptCommand p .hasinv ++ scriptWait p ++ scriptRd p .r0

/-- `c = millerRabinWitness(n, base)` (R79). -/
def callMrwit (p : Params) (n base : Nat) : List Event :=
  scriptWr p .a base ++ scriptWr p .n n ++ scriptCommand p .mrwit ++ scriptWait p ++ scriptRd p .r0

/-- `p = millerRabinMultiTest(n, rounds)`; without `rounds` the notation supplies `ROUNDS_DEFAULT = 10` (R6, R79). -/
def callMrmulti (p : Params) (n : Nat) (rounds : Nat := 10) : List Event :=
  scriptWr p .n n ++ scriptCommand p (.mrmulti rounds) ++ scriptWait p ++ scriptRd p .r0

end Sys2Proof.Machine
end

