-- ==== Sys2Proof/Safety.lean ====
section
/-! DEFINITION. What counts as a safe state and a safe run, and the terms the claims use. -/
namespace Sys2Proof.Safety
open Sys2Proof.Machine

/-- Every register of W bits holds an integer in `[0, 2^W)` (R7, R15, R21, R22, R37). -/
structure InRange (s : State) : Prop where
  regA : s.regA < s.bound
  regB : s.regB < s.bound
  regN : s.regN < s.bound
  regR0 : s.regR0 < s.bound
  regR1 : s.regR1 < s.bound
  opA : s.opA < s.bound
  opB : s.opB < s.bound
  opN : s.opN < s.bound

/-- The hidden working registers fit their widths (R38 to R40). -/
structure WorkFits (s : State) : Prop where
  acc : s.work.pow.acc < s.bound
  base : s.work.pow.base < s.bound
  ex : s.work.pow.ex < s.bound
  r0 : s.work.euclid.r0 < s.bound
  r1 : s.work.euclid.r1 < s.bound
  x0 : s.work.euclid.x0 < s.bound
  x1 : s.work.euclid.x1 < s.bound
  quotient : s.work.euclid.q < s.bound
  count : s.work.tester.k ≤ s.params.width
  odd : s.work.tester.q < s.bound
  t : s.work.tester.t < s.bound
  squarings : s.work.tester.i ≤ s.params.width
  usedLength : s.work.tester.used.length ≤ 255
  used : ∀ b ∈ s.work.tester.used, b < s.bound

/-- A running command is a legal one, in its domain, and is the one `CMD` shows (R28, R37, R43). -/
def Running (s : State) : Prop :=
  ∃ i, decode s.cmd = .ok i ∧ commandOfOp s.op s.rnds.toNat = some i ∧ (needsModulus i = true → 2 ≤ s.opN)

/-- The safe states: those every run from reset stays in. -/
structure Inv (s : State) : Prop where
  /-- the parameters are legal (R6) -/
  params : s.params.wellFormed = true
  /-- registers hold W bits (R21) -/
  range : InRange s
  /-- "`BUSY` and `DONE` are never both 1" (R29) -/
  busyNotDone : s.status.busy = true → s.status.done = false
  /-- an accepted command starts with `ERR = 0` (R33) -/
  busyNoError : s.status.busy = true → s.status.err = .none
  /-- only an accepted, legal, in-domain command runs (R48) -/
  running : s.status.busy = true → Running s
  /-- code 4 is never written (R187) -/
  code : s.status.err ≠ .exhausted
  /-- no command runs while `rst` is asserted (R210) -/
  heldInReset : s.rstLine = true → s.status.busy = false

/-- A step that goes on: KMAU never halts (R223). -/
def goesOn (s : State) : Prop := ∃ t, step s = .next t

/-- The next turn is this access, and the port serves it. -/
def HostTurn (s : State) (a : Access) : Prop :=
  s.rstLine = false ∧ s.agenda.head? = some (.access a)

/-- The next turn is the engine's, and `rst` does not hold it. -/
def EngineTurn (s : State) : Prop :=
  s.rstLine = false ∧ (s.agenda = [] ∨ s.agenda.head? = some .engine)

/-- The next turn is a served host write of `w` to `CMD`. -/
def CommandTurn (s : State) (w : BusWord) : Prop := HostTurn s (writeAt s.params 0x000 w)

/-- The next turn resets KMAU: `rst` is asserted, or the host writes `CTRL` with bit 1 set (R210, R211). -/
def ResetTurn (s : State) : Prop :=
  s.agenda.head? = some (.rst true) ∨
    ∃ v : BusWord, v.getLsbD 1 = true ∧ HostTurn s (writeAt s.params 0x008 v)

/-- The next turn is a served host write of `v` to `STATUS` with bit `k` of `v` set (R29). -/
def ClearTurn (s : State) (k : Nat) : Prop :=
  ∃ v : BusWord, v.getLsbD k = true ∧ HostTurn s (writeAt s.params 0x004 v)

/-- The hardware state after a reset, row by row of R47's table (the cursor, which is not hardware state, apart). -/
def ResetValues (t : State) : Prop :=
  t.regA = 0 ∧ t.regB = 0 ∧ t.regN = 0 ∧ t.regR0 = 0 ∧ t.regR1 = 0 ∧ t.cmd = 0x00000000#32 ∧
    statusWord t.status = 0x00000000#32 ∧ ctrlWord t.ctrl = 0x00000000#32 ∧
    t.cap = BitVec.ofNat 32 (t.params.limbs % 256) ∧
    t.op = 0 ∧ t.rnds = 0 ∧ t.opA = 0 ∧ t.opB = 0 ∧ t.opN = 0 ∧
    t.work.pow.acc = 0 ∧ t.work.pow.base = 0 ∧ t.work.pow.ex = 0 ∧
    t.work.euclid.r0 = 0 ∧ t.work.euclid.r1 = 0 ∧ t.work.euclid.x0 = 0 ∧ t.work.euclid.x1 = 0 ∧
    t.work.euclid.q = 0 ∧
    t.work.tester.k = 0 ∧ t.work.tester.q = 0 ∧ t.work.tester.t = 0 ∧ t.work.tester.i = 0 ∧
    t.work.tester.j = 0 ∧ t.work.tester.re = 0 ∧ t.work.tester.used = [] ∧ t.irq = false

/-- The command is accepted and starts (R43, last branch): word stored, operands latched, flags cleared, `BUSY` set, and
nothing else but the turn and the port's answer changes. -/
def Starts (i : Instr) (s : State) : Prop :=
  exec i s = .next
    { s with
      cmd := encode i, op := BitVec.ofNat 4 (opcodeOf i), rnds := fieldRounds (encode i),
      opA := s.regA, opB := s.regB, opN := s.regN,
      status := { busy := true, done := false, ovr := s.status.ovr, err := .none },
      agenda := s.agenda.tail, port := .written }

/-- The command is refused for its modulus (R43, second branch; R182): as `Starts`, but results zeroed, `ERR = 2`, `DONE`
set and `BUSY` left 0. -/
def RefusesModulus (i : Instr) (s : State) : Prop :=
  exec i s = .next
    { s with
      cmd := encode i, op := BitVec.ofNat 4 (opcodeOf i), rnds := fieldRounds (encode i),
      opA := s.regA, opB := s.regB, opN := s.regN, regR0 := 0, regR1 := 0,
      status := { busy := false, done := true, ovr := s.status.ovr, err := .domainViolation },
      agenda := s.agenda.tail, port := .written }

/-- The running command ends with these results and error code, drawing no random word (R42): every other register is
unchanged but for the hidden working registers, of which nothing is said (R41, R223). -/
def EndsWith (i : Instr) (s : State) (r0 r1 : Nat) (err : ErrCode) : Prop :=
  ∃ w : Working, exec i s = .next
    { s with
      regR0 := r0, regR1 := r1,
      status := { busy := false, done := true, ovr := s.status.ovr, err := err },
      work := w, agenda := s.agenda.tail }

/-- `n` is proven composite by `base`, in the words of R131: with `n − 1 = 2^k · q`, `q` odd, the power `base^q` is
neither 1 nor `n − 1`, and none of its first `k − 1` squarings is `n − 1`. -/
def ProvesComposite (n base : Nat) : Prop :=
  ∃ k q, n - 1 = 2 ^ k * q ∧ q % 2 = 1 ∧ base ^ q % n ≠ 1 ∧ base ^ q % n ≠ n - 1 ∧
    ∀ i, 1 ≤ i → i < k → base ^ (q * 2 ^ i) % n ≠ n - 1

/-- A multi-base test of `n` that tried these bases, in this order, may answer `v` (R140, R141). -/
def MultiRun (n rounds : Nat) (bases : List Nat) (v : Nat) : Prop :=
  bases.Nodup ∧ (∀ b ∈ bases, 2 ≤ b ∧ b ≤ n - 1) ∧ bases.length ≤ min rounds (n - 2) ∧
    ((bases.length = min rounds (n - 2) ∧ (∀ b ∈ bases, mrWitness n b = 0) ∧ v = 1) ∨
      (∃ front b, bases = front ++ [b] ∧ (∀ c ∈ front, mrWitness n c = 0) ∧ mrWitness n b = 1 ∧ v = 0))

/-- Two states that agree on all but the hidden working registers (R41). -/
def AgreeButWork (s t : State) : Prop := ∃ w : Working, t = { s with work := w }

/-- Two outcomes that agree on all but the hidden working registers. -/
def OutcomesAgreeButWork : Host.Outcome State Fault Refusal → Host.Outcome State Fault Refusal → Prop
  | .next s, .next t => AgreeButWork s t
  | .fault f, .fault g => f = g
  | .refused f, .refused g => f = g
  | .next _, .fault _ => False
  | .next _, .refused _ => False
  | .fault _, .next _ => False
  | .fault _, .refused _ => False
  | .refused _, .next _ => False
  | .refused _, .fault _ => False

/-- What a command's outcome may depend on: the latched command and operands, and the random words from the cursor on
(R218). -/
def SameCommand (s t : State) : Prop :=
  s.op = t.op ∧ s.rnds = t.rnds ∧ s.opA = t.opA ∧ s.opB = t.opB ∧ s.opN = t.opN ∧
    ∀ k, s.rho (s.cursor + k) = t.rho (t.cursor + k)

/-- The random source answers whatever the command draws (R45, R220). -/
def SourceReady (s : State) : Prop := s.sourceAnswers = true ∨ min s.rnds.toNat (s.opN - 2) = 0

end Sys2Proof.Safety
end

