-- ==== Sys2Proof/Certificates/Slice0/Obligations.lean ====
section
/-! DEFINITION. The statements for the provers. Each docstring names the rule of spec/ it formalises. -/
open Sys2Proof Sys2Proof.Machine Sys2Proof.Safety

/-! ### The command word -/

/-- R80: the decoding examples. -/
def Obligations.DecodeExamples : Prop :=
  decode 0x00000002#32 = .ok .modpow ∧ decode 0x00000A07#32 = .ok (.mrmulti 10) ∧
    decode 0x00000007#32 = .ok (.mrmulti 0) ∧ decode 0x00000A02#32 = .error .roundsNotAllowed ∧
    decode 0x00000000#32 = .error .reservedOp ∧ decode 0x00000012#32 = .error .reservedLow ∧
    decode 0x00010001#32 = .error .reservedHigh ∧ decode 0x0000FF07#32 = .ok (.mrmulti 255) ∧
    decode 0x00000008#32 = .error .reservedOp

/-- R70, R72, R75, R57: decoding an encoded command gives it back, from the word and from its four bytes. -/
def Obligations.DecodeEncode : Prop :=
  ∀ i : Instr, i.wellFormed = true →
    decode (encode i) = .ok i ∧
      ∀ rest : List Byte,
        decodeBytes (byteLane (encode i) 0 :: byteLane (encode i) 1 :: byteLane (encode i) 2 ::
          byteLane (encode i) 3 :: rest) = some (i, rest)

/-- R70, R74: a word has at most one meaning, and it is the word the encoder writes for it. -/
def Obligations.EncodeDecode : Prop :=
  ∀ (w : BusWord) (i : Instr), decode w = .ok i → i.wellFormed = true ∧ encode i = w

/-- R74: the legal words are exactly those the decoder accepts, in both of the rule's forms, and there are 262. -/
def Obligations.LegalWords : Prop :=
  (∀ w : BusWord, (∃ i, decode w = .ok i) ↔
    (w.toNat / 65536 = 0 ∧ w.toNat / 16 % 16 = 0 ∧ 1 ≤ w.toNat % 16 ∧ w.toNat % 16 ≤ 7 ∧
      (w.toNat % 16 = 7 ∨ w.toNat / 256 % 256 = 0))) ∧
  (∀ w : BusWord, (∃ i, decode w = .ok i) ↔
    ((1 ≤ w.toNat ∧ w.toNat ≤ 6) ∨ ∃ rr, rr ≤ 255 ∧ w.toNat = rr * 256 + 7)) ∧
  (∃ words : List BusWord, words.Nodup ∧ words.length = 262 ∧
    ∀ w : BusWord, w ∈ words ↔ ∃ i, decode w = .ok i)

/-- R75: a word selects a row of the opcode map exactly when the decoder reads that row's command; a word that selects
none is illegal. -/
def Obligations.OpcodeMap : Prop :=
  ∀ w : BusWord,
    (decode w = .ok .modmul ↔ w &&& 0xFFFFFFFF#32 = 0x00000001#32) ∧
    (decode w = .ok .modpow ↔ w &&& 0xFFFFFFFF#32 = 0x00000002#32) ∧
    (decode w = .ok .gcd ↔ w &&& 0xFFFFFFFF#32 = 0x00000003#32) ∧
    (decode w = .ok .eeinv ↔ w &&& 0xFFFFFFFF#32 = 0x00000004#32) ∧
    (decode w = .ok .hasinv ↔ w &&& 0xFFFFFFFF#32 = 0x00000005#32) ∧
    (decode w = .ok .mrwit ↔ w &&& 0xFFFFFFFF#32 = 0x00000006#32) ∧
    ((∃ rounds, decode w = .ok (.mrmulti rounds)) ↔ w &&& 0xFFFF00FF#32 = 0x00000007#32) ∧
    (w ≠ 0x00000001#32 → w ≠ 0x00000002#32 → w ≠ 0x00000003#32 → w ≠ 0x00000004#32 → w ≠ 0x00000005#32 →
      w ≠ 0x00000006#32 → w &&& 0xFFFF00FF#32 ≠ 0x00000007#32 → ∃ e, decode w = .error e)

/-- R72: `ROUNDS = w[15:8]` is the unsigned argument with no scaling, and it is the number of rounds an accepted MRMULTI
latches; a word with `ROUNDS = 0` asks for zero rounds; what the host script supplies for an omitted operand is 10. -/
def Obligations.RoundsField : Prop :=
  (∀ (w : BusWord) (rounds : Nat), decode w = .ok (.mrmulti rounds) → rounds = w.toNat / 256 % 256) ∧
  (∀ (s t : State) (w : BusWord) (rounds : Nat), decode w = .ok (.mrmulti rounds) → CommandTurn s w →
    s.status.busy = false → step s = .next t → t.rnds.toNat = rounds) ∧
  decode 0x00000007#32 = .ok (.mrmulti 0) ∧
  (∀ (p : Params) (n : Nat), callMrmulti p n =
    scriptWr p .n n ++ [.access (writeAt p 0x000 0x00000A07#32)] ++ scriptWait p ++ scriptRd p .r0)

/-- R57: the byte at `addr + k` is bits `[8k+7:8k]`; the four lanes make the word again. -/
def Obligations.ByteLanes : Prop :=
  ∀ w : BusWord,
    (∀ k, k < 4 → (byteLane w k).toNat = w.toNat / 2 ^ (8 * k) % 256) ∧
    wordOfLanes (byteLane w 0) (byteLane w 1) (byteLane w 2) (byteLane w 3) = w

/-! ### Reset -/

/-- R47: the state right after reset. The parameters and the run's bookkeeping are the model's choice (log 1, log 18)
and nothing is said of them. -/
def Obligations.ResetState : Prop := ResetValues State.reset

/-- R210, R47: asserting `rst` puts every piece of hardware state at R47's value, and leaves the random cursor when no
command runs (R45, R47's last row; the running case is `Obligations.AbandonedCommand`). While it is asserted no access is
served and the engine takes no step; a safe state with `rst` asserted is idle. DEDUCED (log 13), not R210's own words: an
access during `rst` is gone with its turn and is answered `notServed`, and a release changes only the line. -/
def Obligations.HardwareReset : Prop :=
  (∀ s : State, s.agenda.head? = some (.rst true) →
    ∃ t, step s = .next t ∧ ResetValues t ∧ t.rstLine = true ∧ t.agenda = s.agenda.tail ∧
      (s.status.busy = false → t.cursor = s.cursor)) ∧
  (∀ (s : State) (a : Access), s.rstLine = true → s.agenda.head? = some (.access a) →
    step s = .next { s with agenda := s.agenda.tail, port := .notServed }) ∧
  (∀ s : State, s.rstLine = true → s.agenda = [] ∨ s.agenda.head? = some .engine →
    step s = .next { s with agenda := s.agenda.tail }) ∧
  (∀ s : State, s.agenda.head? = some (.rst false) →
    step s = .next { s with agenda := s.agenda.tail, rstLine := false }) ∧
  (∀ s : State, Inv s → s.rstLine = true → s.status.busy = false)

/-- R211: a write to `CTRL` with bit 1 set does what asserting `rst` does to the hardware state, whatever `BUSY` is, and
the bit reads 0 afterwards. -/
def Obligations.SoftReset : Prop :=
  ∀ (s : State) (v : BusWord) (rest : List Event), s.rstLine = false → v.getLsbD 1 = true →
    s.agenda = .access (writeAt s.params 0x008 v) :: rest →
    ∃ t u, step s = .next t ∧ step { s with agenda := .rst true :: rest } = .next u ∧
      ResetValues t ∧ t = { u with rstLine := false, port := .written } ∧
      (ctrlWord t.ctrl).getLsbD 1 = false

/-- R212: either reset abandons a running command: no result, no `DONE`, no error, no interrupt; an MRMULTI has taken
between 0 and `min(RNDS, OPN − 2)` words, any other command none. -/
def Obligations.AbandonedCommand : Prop :=
  ∀ s : State, s.status.busy = true → ResetTurn s →
    ∃ t, step s = .next t ∧ t.regR0 = 0 ∧ t.regR1 = 0 ∧ t.status.busy = false ∧ t.status.done = false ∧
      t.status.err = .none ∧ t.irq = false ∧
      s.cursor ≤ t.cursor ∧ t.cursor ≤ s.cursor + min s.rnds.toNat (s.opN - 2) ∧
      (s.op ≠ 7 → t.cursor = s.cursor)

/-! ### The host port -/

/-- R52, R183: an access that is not 4 bytes wide at a multiple of 4 is answered by a bus error and changes no KMAU
state. -/
def Obligations.BusError : Prop :=
  ∀ (s : State) (a : Access) (off : Nat), HostTurn s a → windowOffset s.params (accessAddr a) = some off →
    accessSize a ≠ 4 ∨ off % 4 ≠ 0 →
    step s = .next { s with agenda := s.agenda.tail, port := .busError }

/-- R53: the address map. -/
def Obligations.AddressMap : Prop :=
  ∀ limbs : Nat, limbs ≤ 64 →
    locate limbs 0x000 = .cmd ∧ locate limbs 0x004 = .status ∧ locate limbs 0x008 = .ctrl ∧
    locate limbs 0x00C = .cap ∧
    (∀ off, off % 4 = 0 → 0x010 ≤ off → off ≤ 0x0FC → locate limbs off = .reserved) ∧
    (∀ i, i < limbs →
      locate limbs (0x100 + 4 * i) = .limb .a i ∧ locate limbs (0x200 + 4 * i) = .limb .b i ∧
      locate limbs (0x300 + 4 * i) = .limb .n i ∧ locate limbs (0x400 + 4 * i) = .limb .r0 i ∧
      locate limbs (0x500 + 4 * i) = .limb .r1 i) ∧
    (∀ off, off % 4 = 0 → 0x600 ≤ off → off ≤ 0xFFC → locate limbs off = .reserved)

/-- R54: a write to an operand limb sets that limb and nothing else, a read returns it, whatever `BUSY` is. -/
def Obligations.OperandLimbs : Prop :=
  ∀ (s : State) (r : DataReg) (i : Nat), s.params.wellFormed = true → r = .a ∨ r = .b ∨ r = .n →
    i < s.params.limbs →
    (∀ v : BusWord, HostTurn s (writeAt s.params (limbBase r + 4 * i) v) →
      ∃ t, step s = .next t ∧ limbOf (t.dataReg r) i = v ∧
        (∀ k, k ≠ i → limbOf (t.dataReg r) k = limbOf (s.dataReg r) k) ∧
        (∀ r', r' ≠ r → t.dataReg r' = s.dataReg r') ∧
        t = { s with regA := t.regA, regB := t.regB, regN := t.regN, agenda := s.agenda.tail, port := .written }) ∧
    (HostTurn s (readAt s.params (limbBase r + 4 * i)) →
      step s = .next { s with agenda := s.agenda.tail, port := .data (limbOf (s.dataReg r) i) })

/-- R55, R215: a write to a result limb is ignored; a read returns the limb while idle, and while busy the next free
value, which nothing constrains; a read changes nothing but the count of free values. -/
def Obligations.ResultLimbs : Prop :=
  ∀ (s : State) (r : DataReg) (i : Nat), s.params.wellFormed = true → r = .r0 ∨ r = .r1 → i < s.params.limbs →
    (∀ v : BusWord, HostTurn s (writeAt s.params (limbBase r + 4 * i) v) →
      step s = .next { s with agenda := s.agenda.tail, port := .written }) ∧
    (HostTurn s (readAt s.params (limbBase r + 4 * i)) → s.status.busy = false →
      step s = .next { s with agenda := s.agenda.tail, port := .data (limbOf (s.dataReg r) i) }) ∧
    (HostTurn s (readAt s.params (limbBase r + 4 * i)) → s.status.busy = true →
      step s = .next { s with agenda := s.agenda.tail, port := .data (Config.busyRead s.draws),
                              draws := s.draws + 1 })

/-- R56: reserved offsets, and limbs at or above `L` of every data register, read 0 and ignore a write; reserved bits of
the control registers likewise. -/
def Obligations.ReservedLocations : Prop :=
  (∀ (s : State) (off : Nat), s.params.wellFormed = true → off % 4 = 0 →
    (0x010 ≤ off ∧ off ≤ 0x0FC) ∨ (0x600 ≤ off ∧ off ≤ 0xFFC) ∨
      (∃ (r : DataReg) (i : Nat), s.params.limbs ≤ i ∧ i < 64 ∧ off = limbBase r + 4 * i) →
    (HostTurn s (readAt s.params off) →
      step s = .next { s with agenda := s.agenda.tail, port := .data 0x00000000#32 }) ∧
    (∀ v : BusWord, HostTurn s (writeAt s.params off v) →
      step s = .next { s with agenda := s.agenda.tail, port := .written })) ∧
  (∀ (s : State) (k : Nat), s.params.wellFormed = true → 8 ≤ k → s.cap.getLsbD k = false) ∧
  (∀ st : Status, (statusWord st).getLsbD 3 = false ∧ ∀ k, 8 ≤ k → (statusWord st).getLsbD k = false) ∧
  (∀ (c : Ctrl) (k : Nat), 1 ≤ k → (ctrlWord c).getLsbD k = false) ∧
  (∀ (v : BusWord) (s : State), writeStatus v s = writeStatus (v &&& 0x00000006#32) s ∧
    writeCtrl v s = writeCtrl (v &&& 0x00000003#32) s)

/-- R29: the fields of `STATUS` as read, what a write does, that a read has no side effect, that `BUSY` and `DONE` are
never both 1 in a safe state, and the reset value. -/
def Obligations.StatusRegister : Prop :=
  (∀ s : State, HostTurn s (readAt s.params 0x004) →
    ∃ d : BusWord, step s = .next { s with agenda := s.agenda.tail, port := .data d } ∧
      d.getLsbD 0 = s.status.busy ∧ d.getLsbD 1 = s.status.done ∧ d.getLsbD 2 = s.status.ovr ∧
      d.getLsbD 3 = false ∧ d.toNat / 16 % 16 = (errBits s.status.err).toNat ∧ d.toNat / 256 = 0) ∧
  (∀ (s : State) (v : BusWord), HostTurn s (writeAt s.params 0x004 v) →
    step s = .next { s with
      status := { busy := s.status.busy,
                  done := if v.getLsbD 1 then false else s.status.done,
                  ovr := if v.getLsbD 2 then false else s.status.ovr,
                  err := s.status.err },
      agenda := s.agenda.tail, port := .written }) ∧
  (∀ s : State, Inv s → ¬(s.status.busy = true ∧ s.status.done = true)) ∧
  statusWord State.reset.status = 0x00000000#32

/-- R34: the fields of `CTRL` as read, and what a write does whatever `BUSY` is: bit 1 resets whatever bit 0 is, else `IE`
takes bit 0. The line follows `DONE` when `IE` is 1 and is low when it is 0. -/
def Obligations.ControlRegister : Prop :=
  (∀ s : State, HostTurn s (readAt s.params 0x008) →
    step s = .next { s with agenda := s.agenda.tail,
                            port := .data (if s.ctrl.ie then 0x00000001#32 else 0x00000000#32) }) ∧
  (∀ (s : State) (v : BusWord), HostTurn s (writeAt s.params 0x008 v) → v.getLsbD 1 = false →
    step s = .next { s with ctrl := { ie := v.getLsbD 0 }, agenda := s.agenda.tail, port := .written }) ∧
  (∀ (s : State) (v : BusWord), HostTurn s (writeAt s.params 0x008 v) → v.getLsbD 1 = true →
    ∃ t, step s = .next t ∧ ResetValues t) ∧
  (∀ s : State, s.ctrl.ie = true → s.irq = s.status.done) ∧ (∀ s : State, s.ctrl.ie = false → s.irq = false) ∧
  ctrlWord State.reset.ctrl = 0x00000000#32

/-- R35: `CAP` reads `L` in bits 7:0 and 0 above, and ignores writes. -/
def Obligations.CapRegister : Prop :=
  ∀ s : State, s.params.wellFormed = true →
    (HostTurn s (readAt s.params 0x00C) →
      ∃ d : BusWord, step s = .next { s with agenda := s.agenda.tail, port := .data d } ∧
        d.toNat % 256 = s.params.limbs ∧ d.toNat / 256 = 0 ∧ 32 * (d.toNat % 256) = s.params.width) ∧
    (∀ v : BusWord, HostTurn s (writeAt s.params 0x00C v) →
      step s = .next { s with agenda := s.agenda.tail, port := .written })

/-- R28: a `CMD` write while idle stores the word, legal or not, and runs the issue (its outcome is
`Obligations.CommandIssue`); one while busy is dropped and sets `OVR`, and nothing else changes; a read returns the last
stored word and has no side effect; `CMD` is 0 at reset, which is no legal word. -/
def Obligations.CommandRegister : Prop :=
  (∀ (s : State) (w : BusWord), CommandTurn s w → s.status.busy = false →
    ∃ t, step s = .next t ∧ t.cmd = w) ∧
  (∀ (s : State) (w : BusWord), CommandTurn s w → s.status.busy = true →
    step s = .next { s with status := { s.status with ovr := true },
                            agenda := s.agenda.tail, port := .written }) ∧
  (∀ s : State, HostTurn s (readAt s.params 0x000) →
    step s = .next { s with agenda := s.agenda.tail, port := .data s.cmd }) ∧
  State.reset.cmd = 0x00000000#32 ∧ ∀ i, decode 0x00000000#32 ≠ .ok i

/-- R24: the integer a W-bit register holds is the sum of its limbs, limb 0 least significant, and a Boolean 0 or 1
stands in limb 0. -/
def Obligations.LimbValue : Prop :=
  ∀ (limbs : Nat) (v : Nat), v < 2 ^ (32 * limbs) →
    ((List.range limbs).map fun i => (limbOf v i).toNat * 2 ^ (32 * i)).sum = v ∧
    (v ≤ 1 → (limbOf v 0).toNat = v ∧ ∀ i, 1 ≤ i → limbOf v i = 0#32)

/-- R54, R78: writing the `L` limbs of `v` loads `v` into the operand register, whatever it held, and changes nothing
else. -/
def Obligations.LoadOperand : Prop :=
  ∀ (s : State) (r : DataReg) (v : Nat) (rest : List Event), s.params.wellFormed = true → s.rstLine = false →
    r = .a ∨ r = .b ∨ r = .n → v < s.bound → s.dataReg r < s.bound →
    s.agenda = scriptWr s.params r v ++ rest →
    ∃ t, Sys2Proof.core.run s.params.limbs s = .next t ∧ t.dataReg r = v ∧
      (∀ r', r' ≠ r → t.dataReg r' = s.dataReg r') ∧
      t = { s with regA := t.regA, regB := t.regB, regN := t.regN, agenda := rest, port := .written }

/-- R65: the worked example, from the reset state of a part with `W = 256`: one limb write loads 3233 into `N`; three load
`2^64 + 5` into `A`, and reading `A` back limb by limb returns the same three words and zeros. -/
def Obligations.WorkedExample : Prop :=
  Sys2Proof.core.run 1
      { State.reset with agenda := [.access (writeAt State.reset.params 0x300 0x00000CA1#32)] } =
    .next { State.reset with regN := 3233, agenda := [], port := .written } ∧
  Sys2Proof.core.run 3
      { State.reset with
        agenda := [.access (writeAt State.reset.params 0x100 0x00000005#32),
                   .access (writeAt State.reset.params 0x104 0x00000000#32),
                   .access (writeAt State.reset.params 0x108 0x00000001#32)] } =
    .next { State.reset with regA := 2 ^ 64 + 5, agenda := [], port := .written } ∧
  ∀ i, i < 8 →
    step { State.reset with
             regA := 2 ^ 64 + 5, agenda := [.access (readAt State.reset.params (0x100 + 4 * i))] } =
      .next { State.reset with
                regA := 2 ^ 64 + 5, agenda := [],
                port := .data (if i = 0 then 0x00000005#32 else if i = 2 then 0x00000001#32 else 0x00000000#32) }

/-! ### Issue and the sequencer -/

/-- R43, R76, R181, R182, R189: what a `CMD` write does, in the order of the checks: dropped while busy; refused as illegal;
refused for its modulus; else started with the word and all three operands latched. -/
def Obligations.CommandIssue : Prop :=
  ∀ (s : State) (w : BusWord), CommandTurn s w →
    step s = .next (
      if s.status.busy = true then
        { s with status := { s.status with ovr := true }, agenda := s.agenda.tail, port := .written }
      else if legalWord w = false then
        { s with cmd := w, regR0 := 0, regR1 := 0,
                 status := { busy := false, done := true, ovr := s.status.ovr, err := .illegalCommand },
                 agenda := s.agenda.tail, port := .written }
      else if w.toNat % 16 ≠ 3 ∧ s.regN < 2 then
        { s with cmd := w, op := BitVec.ofNat 4 (w.toNat % 16), rnds := BitVec.ofNat 8 (w.toNat / 256 % 256),
                 opA := s.regA, opB := s.regB, opN := s.regN, regR0 := 0, regR1 := 0,
                 status := { busy := false, done := true, ovr := s.status.ovr, err := .domainViolation },
                 agenda := s.agenda.tail, port := .written }
      else
        { s with cmd := w, op := BitVec.ofNat 4 (w.toNat % 16), rnds := BitVec.ofNat 8 (w.toNat / 256 % 256),
                 opA := s.regA, opB := s.regB, opN := s.regN,
                 status := { busy := true, done := false, ovr := s.status.ovr, err := .none },
                 agenda := s.agenda.tail, port := .written })

/-- R42, R43 (log 8): a step runs the decoded command. A served `CMD` write of a legal word while idle is `exec` of it;
the engine's turn while busy is `exec` of the latched command. `exec` itself takes the turn off the agenda. -/
def Obligations.StepRunsCommand : Prop :=
  (∀ (s : State) (w : BusWord) (i : Instr), CommandTurn s w → s.status.busy = false → decode w = .ok i →
    step s = exec i s) ∧
  (∀ (s : State) (i : Instr), EngineTurn s → s.status.busy = true → commandOfOp s.op s.rnds.toNat = some i →
    step s = exec i s)

/-- The command `withFetchWord` places (log 7) is the one the very next step runs. -/
def Obligations.FetchWordRuns : Prop :=
  ∀ (s : State) (nbits w : Nat) (i : Instr), decodeTableWord nbits w = some i →
    step (s.withFetchWord nbits w) = exec i (s.withFetchWord nbits w)

/-- R27, R42: the engine's step is enabled exactly when `BUSY = 1`, so its turn while idle changes nothing but that the
turn is taken; with nothing scheduled and no command running KMAU stays as it is. That an empty agenda is the engine's
turn, and that an engine turn without a command passes, is the model's DESIGN CHOICE (log 6). -/
def Obligations.IdleStays : Prop :=
  (∀ s : State, EngineTurn s → s.status.busy = false → step s = .next { s with agenda := s.agenda.tail }) ∧
  (∀ s : State, s.agenda = [] → s.status.busy = false → step s = .next s)

/-- R30, R48: the two-state sequencer. `BUSY` rises only by a `CMD` write of a legal word whose modulus, if it has one, is
at least 2; it falls only by the engine's completion or by a reset. -/
def Obligations.BusyTransitions : Prop :=
  ∀ s t : State, step s = .next t →
    (s.status.busy = false → t.status.busy = true →
      ∃ w i, CommandTurn s w ∧ decode w = .ok i ∧ (needsModulus i = true → 2 ≤ s.regN)) ∧
    (s.status.busy = true → t.status.busy = false → (EngineTurn s ∧ t.status.done = true) ∨ ResetTurn s)

/-- R31: `DONE` rises only by the engine's completion or by a refused `CMD` write, and falls only by a write of 1 to bit 1
of `STATUS`, an accepted `CMD` write or a reset; while `DONE = 1` and `BUSY = 0` the outcome does not change until the next
accepted `CMD` write or reset. -/
def Obligations.DoneAndOutcome : Prop :=
  ∀ s t : State, step s = .next t →
    (s.status.done = false → t.status.done = true →
      (EngineTurn s ∧ s.status.busy = true) ∨ ∃ w, CommandTurn s w ∧ s.status.busy = false) ∧
    (s.status.done = true → t.status.done = false →
      ClearTurn s 1 ∨ (∃ w, CommandTurn s w ∧ s.status.busy = false) ∨ ResetTurn s) ∧
    (s.status.done = true → s.status.busy = false → (∀ w, ¬CommandTurn s w) → ¬ResetTurn s →
      t.regR0 = s.regR0 ∧ t.regR1 = s.regR1 ∧ t.status.err = s.status.err)

/-- R32: `OVR` rises exactly by a `CMD` write while busy, and falls exactly by a write of 1 to bit 2 of `STATUS` or a
reset. -/
def Obligations.OverrunFlag : Prop :=
  ∀ s t : State, step s = .next t →
    (s.status.ovr = false → (t.status.ovr = true ↔ s.status.busy = true ∧ ∃ w, CommandTurn s w)) ∧
    (s.status.ovr = true → (t.status.ovr = false ↔ ClearTurn s 2 ∨ ResetTurn s))

/-- R33, R187: `ERR` changes only at a completion, at an issue or at a reset, and no step writes code 4. -/
def Obligations.ErrorCode : Prop :=
  ∀ s t : State, step s = .next t →
    (t.status.err ≠ s.status.err →
      (EngineTurn s ∧ s.status.busy = true) ∨ (∃ w, CommandTurn s w ∧ s.status.busy = false) ∨ ResetTurn s) ∧
    (s.status.err ≠ .exhausted → t.status.err ≠ .exhausted)

/-- R46, R184: `irq = CTRL.IE and STATUS.DONE`. Every command end raises it if enabled, refusals at issue included; an
acknowledge, an accepted and started command and a reset lower it; a dropped `CMD` write leaves it. -/
def Obligations.InterruptLine : Prop :=
  (∀ s : State, s.irq = true ↔ s.ctrl.ie = true ∧ s.status.done = true) ∧
  (∀ s t : State, step s = .next t →
    (EngineTurn s → s.status.busy = true → t.status.busy = false → t.irq = s.ctrl.ie) ∧
    (∀ w, CommandTurn s w → s.status.busy = false →
      t.irq = (s.ctrl.ie && !t.status.busy)) ∧
    (∀ w, CommandTurn s w → s.status.busy = true → t.irq = s.irq) ∧
    (ClearTurn s 1 → t.irq = false) ∧ (ResetTurn s → t.irq = false))

/-! ### The commands -/

/-- R90, R91: MODMUL. Refused for `N < 2`, else started; it ends with `(OPA · OPB) mod OPN`. -/
def Obligations.Modmul : Prop :=
  encode .modmul = 0x00000001#32 ∧
  (∀ s : State, s.status.busy = false → s.regN < 2 → RefusesModulus .modmul s) ∧
  (∀ s : State, s.status.busy = false → 2 ≤ s.regN → Starts .modmul s) ∧
  (∀ s : State, s.status.busy = true → 2 ≤ s.opN →
    EndsWith .modmul s (s.opA * s.opB % s.opN) 0 .none)

/-- R102: MODPOW. Refused for `N < 2`, else started; it ends with `OPA ^ OPB mod OPN`, `0 ^ 0` being 1. -/
def Obligations.Modpow : Prop :=
  encode .modpow = 0x00000002#32 ∧
  (∀ s : State, s.status.busy = false → s.regN < 2 → RefusesModulus .modpow s) ∧
  (∀ s : State, s.status.busy = false → 2 ≤ s.regN → Starts .modpow s) ∧
  (∀ s : State, s.status.busy = true → 2 ≤ s.opN →
    EndsWith .modpow s (s.opA ^ s.opB % s.opN) 0 .none)

/-- R111: GCD. It has no domain check and no error; it ends with the greatest common divisor, whatever `OPN` holds. -/
def Obligations.GcdCommand : Prop :=
  encode .gcd = 0x00000003#32 ∧
  (∀ s : State, s.status.busy = false → Starts .gcd s) ∧
  (∀ s : State, s.status.busy = true → EndsWith .gcd s (Nat.gcd s.opA s.opB) 0 .none)

/-- R115, R185: EEINV. It ends with the gcd in `R0` and in `R1` the coefficient `x` of R113, reduced: `x < OPN` and
`OPA · x ≡ R0 (mod OPN)`; with gcd 1, `x` is the only inverse in `[0, OPN)`; otherwise `ERR = 3` and the results are
written all the same. -/
def Obligations.Eeinv : Prop :=
  encode .eeinv = 0x00000004#32 ∧
  (∀ s : State, s.status.busy = false → s.regN < 2 → RefusesModulus .eeinv s) ∧
  (∀ s : State, s.status.busy = false → 2 ≤ s.regN → Starts .eeinv s) ∧
  (∀ s : State, s.status.busy = true → 2 ≤ s.opN →
    ∃ x : Nat, EndsWith .eeinv s (Nat.gcd s.opA s.opN) x
        (if Nat.gcd s.opA s.opN = 1 then .none else .notInvertible) ∧
      (x : Int) = (extEuclidSigned s.opA s.opN).2 ∧
      x < s.opN ∧ s.opA * x % s.opN = Nat.gcd s.opA s.opN % s.opN ∧
      (Nat.gcd s.opA s.opN = 1 → ∀ y, y < s.opN → s.opA * y % s.opN = 1 → y = x))

/-- R117: HASINV. It ends with 1 if `OPA` is invertible modulo `OPN`, else 0; not being invertible is an answer, not an
error. -/
def Obligations.Hasinv : Prop :=
  encode .hasinv = 0x00000005#32 ∧
  (∀ s : State, s.status.busy = false → s.regN < 2 → RefusesModulus .hasinv s) ∧
  (∀ s : State, s.status.busy = false → 2 ≤ s.regN → Starts .hasinv s) ∧
  (∀ s : State, s.status.busy = true → 2 ≤ s.opN →
    EndsWith .hasinv s (if Nat.gcd s.opA s.opN = 1 then 1 else 0) 0 .none)

/-- R131, R133: MRWIT. It ends with 1 if the base `OPA` proves `OPN` composite in the words of R131, else with 0. -/
def Obligations.Mrwit : Prop :=
  encode .mrwit = 0x00000006#32 ∧
  (∀ s : State, s.status.busy = false → s.regN < 2 → RefusesModulus .mrwit s) ∧
  (∀ s : State, s.status.busy = false → 2 ≤ s.regN → Starts .mrwit s) ∧
  (∀ s : State, s.status.busy = true → 2 ≤ s.opN →
    (ProvesComposite s.opN s.opA → EndsWith .mrwit s 1 0 .none) ∧
    (¬ProvesComposite s.opN s.opA → EndsWith .mrwit s 0 0 .none))

/-- R136, R138, R140, R141: MRMULTI, when the random source answers. It ends with an answer `v` that a test over distinct
bases in `[2, n − 1]` gives, each base drawn from its own word of the stream as R137 says; the cursor advances by the
number of bases tried, and nothing else changes but the hidden working registers. -/
def Obligations.Mrmulti : Prop :=
  (∀ rounds, rounds < 256 → (encode (.mrmulti rounds)).toNat = rounds * 256 + 7) ∧
  (∀ (s : State) (rounds : Nat), rounds < 256 → s.status.busy = false → s.regN < 2 →
    RefusesModulus (.mrmulti rounds) s) ∧
  (∀ (s : State) (rounds : Nat), rounds < 256 → s.status.busy = false → 2 ≤ s.regN →
    Starts (.mrmulti rounds) s ∧ (fieldRounds (encode (.mrmulti rounds))).toNat = rounds) ∧
  (∀ (s : State) (rounds : Nat), s.status.busy = true → 2 ≤ s.opN → SourceReady s →
    ∃ (w : Working) (v : Nat) (bases : List Nat),
      exec (.mrmulti rounds) s = .next
        { s with
          regR0 := v, regR1 := 0,
          status := { busy := false, done := true, ovr := s.status.ovr, err := .none },
          work := w, cursor := s.cursor + bases.length, agenda := s.agenda.tail } ∧
      MultiRun s.opN s.rnds.toNat bases v ∧
      ∀ j (h : j < bases.length),
        bases[j] = drawBase s.opN (bases.take j) (s.rho (s.cursor + j)))

/-- R45: while the random source does not answer, an MRMULTI that must draw stays `BUSY`; only its turn passes
(that a flag says whether it answers is the model's DESIGN CHOICE, log 3). -/
def Obligations.MrmultiWaits : Prop :=
  ∀ (s : State) (rounds : Nat), s.status.busy = true → s.sourceAnswers = false →
    1 ≤ min s.rnds.toNat (s.opN - 2) →
    exec (.mrmulti rounds) s = .next { s with agenda := s.agenda.tail }

/-- The two stops of the model in states no run reaches: completing a command that needs a modulus with
`OPN < 2` (log 17), and the engine's turn with a latched `OP` that names no command (log 16). -/
def Obligations.StopsOutsideDomain : Prop :=
  (∀ (s : State) (i : Instr), s.status.busy = true → needsModulus i = true → s.opN < 2 →
    exec i s = .fault .modulusBelowTwo) ∧
  (∀ s : State, EngineTurn s → s.status.busy = true → s.op.toNat = 0 ∨ 8 ≤ s.op.toNat →
    step s = .fault .noCommand)

/-! ### The arithmetic -/

/-- R100: the binary method computes `(a^e) mod n` with `a^0 = 1`, reduced, for any base. -/
def Obligations.ModPowFunction : Prop :=
  ∀ a e n : Nat, 2 ≤ n → modPow a e n = a ^ e % n ∧ modPow a e n < n ∧ modPow a e n = modPow (a % n) e n

/-- R110: `Gcd` by the document's recursion, and its named values. -/
def Obligations.GcdFunction : Prop :=
  ∀ (a b : Nat) (e : EuclidRegs),
    (gcdRun a b e).r0 = Nat.gcd a b ∧ (gcdRun a 0 e).r0 = a ∧
    (0 < b → (gcdRun a b e).r0 = (gcdRun b (a % b) e).r0) ∧
    (gcdRun 0 b e).r0 = b ∧ (gcdRun a b e).r0 = (gcdRun b a e).r0

/-- R113: the signed form returns the gcd and a coefficient in `[0, n)` with `b · x ≡ g (mod n)`. -/
def Obligations.ExtEuclidFunction : Prop :=
  ∀ b n : Nat, 2 ≤ n →
    (extEuclidSigned b n).1 = (Nat.gcd b n : Int) ∧
    0 ≤ (extEuclidSigned b n).2 ∧ (extEuclidSigned b n).2 < (n : Int) ∧
    ((b : Int) * (extEuclidSigned b n).2) % (n : Int) = (extEuclidSigned b n).1 % (n : Int)

/-- R114: the reduced form the registers hold ends with the same gcd and coefficient as the signed form, for every `b`
and `n ≥ 2`. -/
def Obligations.ReducedForm : Prop :=
  ∀ b n q : Nat, 2 ≤ n →
    ((extRun b n q).r0 : Int) = (extEuclidSigned b n).1 ∧ ((extRun b n q).x0 : Int) = (extEuclidSigned b n).2

/-- R130: the decomposition of `n − 1`, its uniqueness, and its bounds. -/
def Obligations.Decomposition : Prop :=
  ∀ n : Nat, 2 ≤ n →
    n - 1 = 2 ^ (decomp n).1 * (decomp n).2 ∧ (decomp n).2 % 2 = 1 ∧ 1 ≤ (decomp n).2 ∧
    (∀ k q, n - 1 = 2 ^ k * q → q % 2 = 1 → k = (decomp n).1 ∧ q = (decomp n).2) ∧
    (∀ w, n < 2 ^ w → (decomp n).1 < w) ∧
    (n % 2 = 0 → decomp n = (0, n - 1))

/-- R132: bases that are 0, 1 or `n − 1` modulo `n`; `n = 2`; even `n` above 2. -/
def Obligations.WitnessCorners : Prop :=
  ∀ n base : Nat, 2 ≤ n →
    (base % n = 0 → mrWitness n base = 1) ∧ (base % n = 1 → mrWitness n base = 0) ∧
    (base % n = n - 1 → mrWitness n base = 0) ∧ (n = 2 → mrWitness n base = 1 - base % 2) ∧
    (2 < n → n % 2 = 0 →
      (mrWitness n base = 0 ↔ base ^ (n - 1) % n = 1 ∨ base ^ (n - 1) % n = n - 1))

/-- R132: no base that is not a multiple of an odd prime is a witness against it; so the answer 1 for such a base proves
`n` composite. -/
def Obligations.PrimeHasNoWitness : Prop :=
  ∀ p base : Nat, p.Prime → p ≠ 2 → ¬p ∣ base → mrWitness p base = 0

/-- R140: MRMULTI never denies a prime, whatever the random stream and the number of rounds; so an answer 0 proves the
candidate composite. -/
def Obligations.PrimeNeverDenied : Prop :=
  ∀ (s t : State) (rounds : Nat), s.status.busy = true → SourceReady s → s.opN.Prime →
    exec (.mrmulti rounds) s = .next t → t.regR0 = 1

/-- R137: a drawn base is the first unused value from `2 + (r mod (n − 2))` on, wrapping inside `[2, n − 1]`, found after
at most `|USED|` steps. -/
def Obligations.DrawnBase : Prop :=
  ∀ (n : Nat) (used : List Nat) (r : Nat), 3 ≤ n → used.length < n - 2 →
    2 ≤ drawBase n used r ∧ drawBase n used r ≤ n - 1 ∧ drawBase n used r ∉ used ∧
    ∃ d, d ≤ used.length ∧ drawBase n used r = 2 + (r + d) % (n - 2) ∧
      ∀ e, e < d → 2 + (r + e) % (n - 2) ∈ used

/-- R135, R139: no round gives 1 without a draw; `N = 2` gives 1 without a draw; `N = 3` and `N = 5` give 1 for every
stream; `N = 4` with two rounds or more gives 0 for every stream, and with one round 0 exactly for an even word. -/
def Obligations.MultiCorners : Prop :=
  ∀ (rho : Nat → Nat) (c rounds : Nat) (w : Working),
    (∀ n, (mrMulti n 0 rho c w).answer = 1 ∧ (mrMulti n 0 rho c w).cursor = c) ∧
    ((mrMulti 2 rounds rho c w).answer = 1 ∧ (mrMulti 2 rounds rho c w).cursor = c) ∧
    (mrMulti 3 rounds rho c w).answer = 1 ∧ (mrMulti 5 rounds rho c w).answer = 1 ∧
    (2 ≤ rounds → (mrMulti 4 rounds rho c w).answer = 0) ∧
    ((mrMulti 4 1 rho c w).answer = if rho c % 2 = 0 then 0 else 1)

/-! ### The whole machine -/

/-- The reset state is safe (R47). -/
def Obligations.ResetSafe : Prop := Inv State.reset ∧ WorkFits State.reset

/-- From every safe state a step that goes on leads to a safe state (R15, R21, R29, R43, R187). -/
def Obligations.StepKeepsSafe : Prop := ∀ s t : State, Inv s → step s = .next t → Inv t

/-- R223: KMAU never halts. From every safe state the step goes on: no fault and no refusal. -/
def Obligations.SafeGoesOn : Prop := ∀ s : State, Inv s → goesOn s

/-- R38 to R40: the working registers stay in their widths, and at most 255 bases are kept. R40 gives the squaring
counter no width: that it stays at most `W` rests on what the model keeps there (log 22, DEDUCED). -/
def Obligations.WorkingRegistersFit : Prop :=
  ∀ s t : State, Inv s → WorkFits s → step s = .next t → WorkFits t

/-- R6, R35: the parameters, and so `CAP`, are fixed for one run. -/
def Obligations.ParametersFixed : Prop :=
  ∀ s t : State, step s = .next t → t.params = s.params ∧ t.cap = s.cap

/-- R21, R42, R43 (Part 5, property 10): no command, at issue or at completion, changes `A`, `B`, `N`, `CTRL` or `OVR`, nor
the parameters, the `rst` line, the random source or the injected words; only MRMULTI moves the cursor. -/
def Obligations.CommandsKeepOperands : Prop :=
  ∀ (i : Instr) (s t : State), exec i s = .next t →
    t.regA = s.regA ∧ t.regB = s.regB ∧ t.regN = s.regN ∧ t.ctrl = s.ctrl ∧ t.status.ovr = s.status.ovr ∧
    t.params = s.params ∧ t.rstLine = s.rstLine ∧ t.sourceAnswers = s.sourceAnswers ∧ t.rhoWords = s.rhoWords ∧
    t.draws = s.draws ∧ t.agenda = s.agenda.tail ∧
    ((∀ rounds, i ≠ .mrmulti rounds) → t.cursor = s.cursor)

/-- R62, R218: the outcome of a running command is a function of the latched command and operands and of the random words
it draws: two runs that agree on these, whatever else differs, end with the same results, code and number of words. -/
def Obligations.OutcomeDependsOnLatches : Prop :=
  ∀ (i : Instr) (s t s' t' : State), SameCommand s t → s.status.busy = true → t.status.busy = true →
    exec i s = .next s' → exec i t = .next t' → s'.status.busy = false → t'.status.busy = false →
    s'.regR0 = t'.regR0 ∧ s'.regR1 = t'.regR1 ∧ s'.status.err = t'.status.err ∧
      ∃ d, s'.cursor = s.cursor + d ∧ t'.cursor = t.cursor + d

/-- R41: no hidden working register is visible: two states that differ only there step alike, port answer, registers
and `irq` included, and differ only there afterwards. -/
def Obligations.WorkingRegistersHidden : Prop :=
  ∀ s t : State, AgreeButWork s t → OutcomesAgreeButWork (step s) (step t)
end

