-- ==== Sys2Proof/Laws/Arith.lean ====
section
/-! SUPPORT. What the loops of the four units compute: one lemma per loop. -/
namespace Sys2Proof.Machine

theorem lt_two_pow_bitlen (v : Nat) : v < 2 ^ bitlen v := by
  unfold bitlen
  split
  · subst_vars; simp
  · exact Nat.lt_log2_self

/-! ### The exponentiation engine -/

/-- The loop invariant of R101, at the loop's end: `acc` is `acc · base^ex` modulo `n`. -/
theorem powLoop_acc_modEq {n : Nat} : ∀ (rounds : Nat) (p : PowRegs), p.ex < 2 ^ rounds →
    (powLoop rounds n p).acc ≡ p.acc * p.base ^ p.ex [MOD n]
  | 0, p, h => by
    have h0 : p.ex = 0 := by simpa using h
    simp only [powLoop, h0, pow_zero, mul_one]
    exact Nat.ModEq.refl _
  | rounds + 1, p, h => by
    unfold powLoop
    split
    · rename_i h0; simp only [h0, pow_zero, mul_one]; exact Nat.ModEq.refl _
    · have hlt : (powRound n p).ex < 2 ^ rounds := by
        simp only [powRound]; rw [pow_succ] at h; omega
      refine (powLoop_acc_modEq rounds _ hlt).trans ?_
      have hbase : (modMul p.base p.base n) ^ (p.ex / 2) ≡ p.base ^ (2 * (p.ex / 2)) [MOD n] := by
        rw [pow_mul, pow_two]; exact (Nat.mod_modEq _ _).pow _
      simp only [powRound]
      split
      · rename_i hodd
        have hex : p.ex = 2 * (p.ex / 2) + 1 := by omega
        calc modMul p.acc p.base n * modMul p.base p.base n ^ (p.ex / 2)
            ≡ p.acc * p.base * p.base ^ (2 * (p.ex / 2)) [MOD n] := (Nat.mod_modEq _ _).mul hbase
          _ = p.acc * p.base ^ (2 * (p.ex / 2) + 1) := by ring
          _ = p.acc * p.base ^ p.ex := by rw [← hex]
      · have hex : p.ex = 2 * (p.ex / 2) := by omega
        calc p.acc * modMul p.base p.base n ^ (p.ex / 2)
            ≡ p.acc * p.base ^ (2 * (p.ex / 2)) [MOD n] := (Nat.ModEq.refl _).mul hbase
          _ = p.acc * p.base ^ p.ex := by rw [← hex]

/-- The accumulator stays reduced. -/
theorem powLoop_acc_lt {n : Nat} (hn : 0 < n) : ∀ (rounds : Nat) (p : PowRegs), p.acc < n →
    (powLoop rounds n p).acc < n
  | 0, _, h => h
  | rounds + 1, p, h => by
    unfold powLoop
    split
    · exact h
    · refine powLoop_acc_lt hn rounds _ ?_
      simp only [powRound]
      split
      · exact Nat.mod_lt _ hn
      · exact h

/-- The base register keeps any bound that covers `n` and the start. -/
theorem powLoop_base_lt {n bound : Nat} (hn : 0 < n) (hb : n ≤ bound) : ∀ (rounds : Nat) (p : PowRegs),
    p.base < bound → (powLoop rounds n p).base < bound
  | 0, _, h => h
  | rounds + 1, p, h => by
    unfold powLoop
    split
    · exact h
    · exact powLoop_base_lt hn hb rounds _ (lt_of_lt_of_le (Nat.mod_lt _ hn) hb)

/-- The exponent register never grows. -/
theorem powLoop_ex_le {n : Nat} : ∀ (rounds : Nat) (p : PowRegs), (powLoop rounds n p).ex ≤ p.ex
  | 0, _ => le_refl _
  | rounds + 1, p => by
    unfold powLoop
    split
    · exact le_refl _
    · exact (powLoop_ex_le rounds _).trans (Nat.div_le_self _ _)

/-! ### The Euclidean unit -/

/-- The loop of R110 ends with the greatest common divisor in `r0`. -/
theorem gcdLoop_r0 : ∀ (rounds : Nat) (e : EuclidRegs), e.r1 ≤ rounds → (gcdLoop rounds e).r0 = Nat.gcd e.r0 e.r1
  | 0, e, h => by
    have h0 : e.r1 = 0 := by omega
    simp [gcdLoop, h0]
  | rounds + 1, e, h => by
    unfold gcdLoop
    split
    · rename_i h0; simp [h0]
    · rename_i h0
      have hlt := Nat.mod_lt e.r0 (Nat.pos_of_ne_zero h0)
      rw [gcdLoop_r0 rounds _ (by simp only; omega), Nat.gcd_comm, ← Nat.gcd_rec, Nat.gcd_comm]

/-- One division step keeps the remainder's form. -/
theorem extRound_r1 (n : Nat) (e : EuclidRegs) : (extRound n e).r1 = e.r0 % e.r1 := by
  simp only [extRound]
  have h := Nat.div_add_mod e.r0 e.r1
  rw [Nat.mul_comm] at h
  omega

/-- The loop of R113, R114 ends with the greatest common divisor in `r0`. -/
theorem extLoop_r0 {n : Nat} : ∀ (rounds : Nat) (e : EuclidRegs), e.r1 ≤ rounds →
    (extLoop rounds n e).r0 = Nat.gcd e.r0 e.r1
  | 0, e, h => by
    have h0 : e.r1 = 0 := by omega
    simp [extLoop, h0]
  | rounds + 1, e, h => by
    unfold extLoop
    split
    · rename_i h0; simp [h0]
    · rename_i h0
      have hlt := Nat.mod_lt e.r0 (Nat.pos_of_ne_zero h0)
      have hr := extRound_r1 n e
      rw [extLoop_r0 rounds _ (by omega), hr]
      show Nat.gcd e.r1 (e.r0 % e.r1) = _
      rw [Nat.gcd_comm, ← Nat.gcd_rec, Nat.gcd_comm]

/-- The reduced difference of R114 is the difference modulo `n`. -/
theorem subMod_eq {u v n : Nat} (hu : u < n) (hv : v < n) :
    subMod u v n < n ∧ ((subMod u v n : Nat) : Int) = ((u : Int) - v) % n := by
  unfold subMod
  split
  · rename_i h
    refine ⟨by omega, ?_⟩
    rw [Int.emod_eq_of_lt (by omega) (by omega)]; omega
  · refine ⟨by omega, ?_⟩
    rw [← Int.add_emod_right, Int.emod_eq_of_lt (by omega) (by omega)]; omega

/-- The coefficients stay reduced (R114). -/
theorem extLoop_coeff_lt {n : Nat} (hn : 0 < n) : ∀ (rounds : Nat) (e : EuclidRegs), e.x0 < n → e.x1 < n →
    (extLoop rounds n e).x0 < n ∧ (extLoop rounds n e).x1 < n
  | 0, _, h0, h1 => ⟨h0, h1⟩
  | rounds + 1, e, h0, h1 => by
    unfold extLoop
    split
    · exact ⟨h0, h1⟩
    · exact extLoop_coeff_lt hn rounds _ h1 (subMod_eq h0 (Nat.mod_lt _ hn)).1

/-- Every register of the loop keeps a bound that covers `n` and the start (R39). -/
theorem extLoop_lt {n bound : Nat} (hn : 0 < n) (hb : n ≤ bound) : ∀ (rounds : Nat) (e : EuclidRegs),
    e.r0 < bound → e.r1 < bound → e.x0 < n → e.x1 < n → e.q < bound →
    (extLoop rounds n e).r0 < bound ∧ (extLoop rounds n e).r1 < bound ∧ (extLoop rounds n e).x0 < n ∧
      (extLoop rounds n e).x1 < n ∧ (extLoop rounds n e).q < bound
  | 0, _, h0, h1, h2, h3, h4 => ⟨h0, h1, h2, h3, h4⟩
  | rounds + 1, e, h0, h1, h2, h3, h4 => by
    unfold extLoop
    split
    · exact ⟨h0, h1, h2, h3, h4⟩
    · refine extLoop_lt hn hb rounds _ h1 ?_ h3 (subMod_eq h2 (Nat.mod_lt _ hn)).1 ?_
      · exact lt_of_le_of_lt (Nat.sub_le _ _) h0
      · exact lt_of_le_of_lt (Nat.div_le_self _ _) h0

/-- The run of GCD ends with the greatest common divisor (R110). -/
theorem gcdRun_r0 (a b : Nat) (e : EuclidRegs) : (gcdRun a b e).r0 = Nat.gcd a b :=
  gcdLoop_r0 b { e with r0 := a, r1 := b } (le_refl _)

/-- The run of EEINV and HASINV ends with the greatest common divisor (R113). -/
theorem extRun_r0 (b n q : Nat) : (extRun b n q).r0 = Nat.gcd b n :=
  extLoop_r0 n { r0 := b, r1 := n, x0 := 1, x1 := 0, q := q } (le_refl _)

/-- The returned coefficient is reduced (R115). -/
theorem extRun_x0_lt {b n q : Nat} (hn : 2 ≤ n) : (extRun b n q).x0 < n :=
  (extLoop_coeff_lt (by omega) n { r0 := b, r1 := n, x0 := 1, x1 := 0, q := q } (by simp only; omega)
    (by simp only; omega)).1

/-- Reduction modulo `n` commutes with the update (R114): the reduced loop follows the signed loop. -/
theorem extLoop_signed {n : Nat} (hn : 0 < n) : ∀ (rounds : Nat) (e : EuclidRegs) (x0 x1 : Int),
    e.x0 < n → e.x1 < n → (e.x0 : Int) = x0 % n → (e.x1 : Int) = x1 % n →
    ((extLoop rounds n e).r0 : Int) = (signedLoop rounds (e.r0, e.r1, x0, x1)).1 ∧
      ((extLoop rounds n e).x0 : Int) = (signedLoop rounds (e.r0, e.r1, x0, x1)).2.2.1 % n
  | 0, _, _, _, _, _, hx0, _ => ⟨rfl, hx0⟩
  | rounds + 1, e, x0, x1, h0, h1, hx0, hx1 => by
    unfold extLoop signedLoop
    by_cases hz : e.r1 = 0
    · simp [hz, hx0]
    · have hz' : ((e.r1 : Nat) : Int) ≠ 0 := by exact_mod_cast hz
      simp only [hz, hz', if_false]
      have hs := subMod_eq h0 (Nat.mod_lt (e.r0 / e.r1 * e.x1) hn)
      have hr : ((extRound n e).r1 : Int) = (e.r0 : Int) - (e.r0 : Int) / e.r1 * e.r1 := by
        rw [extRound_r1]; push_cast; rw [Int.emod_def]; ring
      have hx : ((extRound n e).x1 : Int) = (x0 - (e.r0 : Int) / e.r1 * x1) % n := by
        show ((subMod e.x0 (modMul (e.r0 / e.r1) e.x1 n) n : Nat) : Int) = _
        rw [modMul, hs.2]
        push_cast
        rw [hx0, hx1, Int.sub_emod, Int.emod_emod_of_dvd _ (dvd_refl _), Int.emod_emod_of_dvd _ (dvd_refl _),
          Int.mul_emod, Int.emod_emod_of_dvd _ (dvd_refl _), ← Int.mul_emod, ← Int.sub_emod]
      have ih := extLoop_signed hn rounds (extRound n e) x1 _ h1 hs.1 hx1 hx
      rw [hr] at ih
      exact ih

/-- The signed loop keeps `r0 ≡ b · x0` and `r1 ≡ b · x1` modulo `n` (R113). -/
theorem signedLoop_modEq {b n : Int} : ∀ (rounds : Nat) (r0 r1 x0 x1 : Int),
    r0 ≡ b * x0 [ZMOD n] → r1 ≡ b * x1 [ZMOD n] →
    (signedLoop rounds (r0, r1, x0, x1)).1 ≡ b * (signedLoop rounds (r0, r1, x0, x1)).2.2.1 [ZMOD n]
  | 0, _, _, _, _, h0, _ => h0
  | rounds + 1, r0, r1, x0, x1, h0, h1 => by
    unfold signedLoop
    split
    · exact h0
    · refine signedLoop_modEq rounds _ _ _ _ h1 ?_
      have h : r0 - r0 / r1 * r1 ≡ b * x0 - r0 / r1 * (b * x1) [ZMOD n] := h0.sub ((Int.ModEq.refl _).mul h1)
      have hring : b * x0 - r0 / r1 * (b * x1) = b * (x0 - r0 / r1 * x1) := by ring
      rwa [hring] at h

/-! ### The Miller–Rabin tester -/

/-- The trailing zeros of a number of at most `bits` bits. -/
theorem trailingZeros_spec : ∀ (bits m : Nat), 0 < m → m < 2 ^ bits →
    2 ^ trailingZeros bits m ∣ m ∧ m / 2 ^ trailingZeros bits m % 2 = 1
  | 0, m, h0, h => by omega
  | bits + 1, m, h0, h => by
    unfold trailingZeros
    split
    · rename_i he
      have hm : m = 2 * (m / 2) := by omega
      obtain ⟨hd, ho⟩ := trailingZeros_spec bits (m / 2) (by omega) (by rw [pow_succ] at h; omega)
      constructor
      · rw [pow_succ, Nat.mul_comm]
        conv_rhs => rw [hm]
        exact Nat.mul_dvd_mul_left 2 hd
      · rw [pow_succ, Nat.mul_comm, ← Nat.div_div_eq_div_mul]
        exact ho
    · simp; omega

/-- The squaring loop answers 0 exactly when one of its squarings is `n − 1` (R131). -/
theorem squareLoop_answer {n : Nat} : ∀ (left t i : Nat),
    ((squareLoop left n t i).answer = 0 ∧ ∃ d, 1 ≤ d ∧ d ≤ left ∧ t ^ 2 ^ d % n = n - 1) ∨
    ((squareLoop left n t i).answer = 1 ∧ ∀ d, 1 ≤ d → d ≤ left → t ^ 2 ^ d % n ≠ n - 1)
  | 0, _, _ => .inr ⟨rfl, fun d h1 h2 => by omega⟩
  | left + 1, t, i => by
    have hsq : modMul t t n = t ^ 2 ^ 1 % n := by simp [modMul, pow_two]
    have hstep : ∀ d, modMul t t n ^ 2 ^ d % n = t ^ 2 ^ (d + 1) % n := fun d => by
      rw [modMul, ← Nat.pow_mod, pow_succ 2 d, Nat.mul_comm (2 ^ d) 2, pow_mul, pow_two]
    unfold squareLoop
    split
    · rename_i h
      exact .inl ⟨rfl, 1, le_refl _, by omega, by rw [← hsq]; exact h⟩
    · rename_i h
      rcases squareLoop_answer left (modMul t t n) (i + 1) with ⟨ha, d, h1, h2, hd⟩ | ⟨ha, hall⟩
      · exact .inl ⟨ha, d + 1, by omega, by omega, by rw [← hstep]; exact hd⟩
      · refine .inr ⟨ha, fun d h1 h2 => ?_⟩
        rcases Nat.lt_or_ge d 2 with hlt | hge
        · have : d = 1 := by omega
          subst this; rw [← hsq]; exact h
        · have := hall (d - 1) (by omega) (by omega)
          rw [hstep, Nat.sub_add_cancel (by omega)] at this
          exact this

/-- The squaring loop counts at most its rounds, and `t` stays reduced. -/
theorem squareLoop_bounds {n bound : Nat} (hn : 0 < n) (hb : n ≤ bound) : ∀ (left t i : Nat), t < bound →
    (squareLoop left n t i).i ≤ i + left ∧ (squareLoop left n t i).t < bound
  | 0, _, _, h => ⟨by simp [squareLoop], h⟩
  | left + 1, t, i, h => by
    have hlt : modMul t t n < bound := lt_of_lt_of_le (Nat.mod_lt _ hn) hb
    unfold squareLoop
    split
    · exact ⟨by simp only; omega, hlt⟩
    · have := squareLoop_bounds hn hb left (modMul t t n) (i + 1) hlt
      exact ⟨by omega, this.2⟩

/-- A single-base test answers 0 or 1. -/
theorem trial_answer (n base : Nat) : (trial n base).answer = 0 ∨ (trial n base).answer = 1 := by
  unfold trial
  simp only
  split
  · exact .inl rfl
  · rcases squareLoop_answer (n := n) ((decomp n).1 - 1) (powRun base (decomp n).2 n).acc 0 with h | h
    · exact .inl h.1
    · exact .inr h.1

/-- The step past used values: it goes forward, through used values only, and ends at an unused one or at its bound. -/
theorem stepUnused_spec {n : Nat} (hn : 3 ≤ n) (used : List Nat) (r : Nat) : ∀ (steps d : Nat),
    ∃ k, k ≤ steps ∧ stepUnused steps n used (2 + (r + d) % (n - 2)) = 2 + (r + d + k) % (n - 2) ∧
      (∀ e, e < k → 2 + (r + d + e) % (n - 2) ∈ used) ∧
      (k < steps → 2 + (r + d + k) % (n - 2) ∉ used)
  | 0, d => ⟨0, le_refl _, rfl, fun e h => by omega, fun h => by omega⟩
  | steps + 1, d => by
    unfold stepUnused
    split
    · rename_i hmem
      have hnext : (if 2 + (r + d) % (n - 2) = n - 1 then 2 else 2 + (r + d) % (n - 2) + 1) =
          2 + (r + (d + 1)) % (n - 2) := by
        have hlt := Nat.mod_lt (r + d) (show 0 < n - 2 by omega)
        rw [← Nat.add_assoc, Nat.add_mod (r + d) 1]
        split
        · rename_i h
          have h1 : (r + d) % (n - 2) = n - 2 - 1 := by omega
          rw [h1]
          rcases Nat.lt_or_ge 1 (n - 2) with h2 | h2
          · rw [Nat.mod_eq_of_lt h2, Nat.sub_add_cancel (by omega), Nat.mod_self]
          · have : n - 2 = 1 := by omega
            rw [this]
        · rename_i h
          have hfit : (r + d) % (n - 2) + 1 < n - 2 := by omega
          rw [Nat.mod_eq_of_lt (show 1 < n - 2 by omega), Nat.mod_eq_of_lt hfit, Nat.add_assoc]
      rw [hnext]
      obtain ⟨k, hk, heq, hbefore, hend⟩ := stepUnused_spec hn used r steps (d + 1)
      refine ⟨k + 1, by omega, by rw [heq]; congr 2; omega, fun e he => ?_, fun hlt => ?_⟩
      · rcases Nat.eq_zero_or_pos e with h0 | hpos
        · subst h0; exact hmem
        · have := hbefore (e - 1) (by omega)
          rwa [show r + (d + 1) + (e - 1) = r + d + e by omega] at this
      · have := hend (by omega)
        rwa [show r + (d + 1) + k = r + d + (k + 1) by omega] at this
    · rename_i hmem
      exact ⟨0, by omega, rfl, fun e h => by omega, fun _ => hmem⟩

end Sys2Proof.Machine
end

