-- ==== Sys2Proof/Laws/State.lean ====
section
/-! SUPPORT. One lemma per field per update of State, true by rfl, so that no later proof unfolds a record update. -/
namespace Sys2Proof.Machine

@[simp] theorem advance_params (s : State) : (advance s).params = s.params := rfl
@[simp] theorem advance_regA (s : State) : (advance s).regA = s.regA := rfl
@[simp] theorem advance_regB (s : State) : (advance s).regB = s.regB := rfl
@[simp] theorem advance_regN (s : State) : (advance s).regN = s.regN := rfl
@[simp] theorem advance_regR0 (s : State) : (advance s).regR0 = s.regR0 := rfl
@[simp] theorem advance_regR1 (s : State) : (advance s).regR1 = s.regR1 := rfl
@[simp] theorem advance_cmd (s : State) : (advance s).cmd = s.cmd := rfl
@[simp] theorem advance_status (s : State) : (advance s).status = s.status := rfl
@[simp] theorem advance_ctrl (s : State) : (advance s).ctrl = s.ctrl := rfl
@[simp] theorem advance_op (s : State) : (advance s).op = s.op := rfl
@[simp] theorem advance_rnds (s : State) : (advance s).rnds = s.rnds := rfl
@[simp] theorem advance_opA (s : State) : (advance s).opA = s.opA := rfl
@[simp] theorem advance_opB (s : State) : (advance s).opB = s.opB := rfl
@[simp] theorem advance_opN (s : State) : (advance s).opN = s.opN := rfl
@[simp] theorem advance_work (s : State) : (advance s).work = s.work := rfl
@[simp] theorem advance_rstLine (s : State) : (advance s).rstLine = s.rstLine := rfl
@[simp] theorem advance_sourceAnswers (s : State) : (advance s).sourceAnswers = s.sourceAnswers := rfl
@[simp] theorem advance_rhoWords (s : State) : (advance s).rhoWords = s.rhoWords := rfl
@[simp] theorem advance_cursor (s : State) : (advance s).cursor = s.cursor := rfl
@[simp] theorem advance_draws (s : State) : (advance s).draws = s.draws := rfl
@[simp] theorem advance_agenda (s : State) : (advance s).agenda = s.agenda.tail := rfl
@[simp] theorem advance_port (s : State) : (advance s).port = s.port := rfl
@[simp] theorem advance_bound (s : State) : (advance s).bound = s.bound := rfl

@[simp] theorem answer_params (p : PortAnswer) (s : State) : (answer p s).params = s.params := rfl
@[simp] theorem answer_regA (p : PortAnswer) (s : State) : (answer p s).regA = s.regA := rfl
@[simp] theorem answer_regB (p : PortAnswer) (s : State) : (answer p s).regB = s.regB := rfl
@[simp] theorem answer_regN (p : PortAnswer) (s : State) : (answer p s).regN = s.regN := rfl
@[simp] theorem answer_regR0 (p : PortAnswer) (s : State) : (answer p s).regR0 = s.regR0 := rfl
@[simp] theorem answer_regR1 (p : PortAnswer) (s : State) : (answer p s).regR1 = s.regR1 := rfl
@[simp] theorem answer_cmd (p : PortAnswer) (s : State) : (answer p s).cmd = s.cmd := rfl
@[simp] theorem answer_status (p : PortAnswer) (s : State) : (answer p s).status = s.status := rfl
@[simp] theorem answer_ctrl (p : PortAnswer) (s : State) : (answer p s).ctrl = s.ctrl := rfl
@[simp] theorem answer_op (p : PortAnswer) (s : State) : (answer p s).op = s.op := rfl
@[simp] theorem answer_rnds (p : PortAnswer) (s : State) : (answer p s).rnds = s.rnds := rfl
@[simp] theorem answer_opA (p : PortAnswer) (s : State) : (answer p s).opA = s.opA := rfl
@[simp] theorem answer_opB (p : PortAnswer) (s : State) : (answer p s).opB = s.opB := rfl
@[simp] theorem answer_opN (p : PortAnswer) (s : State) : (answer p s).opN = s.opN := rfl
@[simp] theorem answer_work (p : PortAnswer) (s : State) : (answer p s).work = s.work := rfl
@[simp] theorem answer_rstLine (p : PortAnswer) (s : State) : (answer p s).rstLine = s.rstLine := rfl
@[simp] theorem answer_sourceAnswers (p : PortAnswer) (s : State) : (answer p s).sourceAnswers = s.sourceAnswers := rfl
@[simp] theorem answer_rhoWords (p : PortAnswer) (s : State) : (answer p s).rhoWords = s.rhoWords := rfl
@[simp] theorem answer_cursor (p : PortAnswer) (s : State) : (answer p s).cursor = s.cursor := rfl
@[simp] theorem answer_draws (p : PortAnswer) (s : State) : (answer p s).draws = s.draws := rfl
@[simp] theorem answer_agenda (p : PortAnswer) (s : State) : (answer p s).agenda = s.agenda := rfl
@[simp] theorem answer_port (p : PortAnswer) (s : State) : (answer p s).port = p := rfl
@[simp] theorem answer_bound (p : PortAnswer) (s : State) : (answer p s).bound = s.bound := rfl

@[simp] theorem raiseAtIssue_params (c : ErrCode) (s : State) : (raiseAtIssue c s).params = s.params := rfl
@[simp] theorem raiseAtIssue_regA (c : ErrCode) (s : State) : (raiseAtIssue c s).regA = s.regA := rfl
@[simp] theorem raiseAtIssue_regB (c : ErrCode) (s : State) : (raiseAtIssue c s).regB = s.regB := rfl
@[simp] theorem raiseAtIssue_regN (c : ErrCode) (s : State) : (raiseAtIssue c s).regN = s.regN := rfl
@[simp] theorem raiseAtIssue_regR0 (c : ErrCode) (s : State) : (raiseAtIssue c s).regR0 = 0 := rfl
@[simp] theorem raiseAtIssue_regR1 (c : ErrCode) (s : State) : (raiseAtIssue c s).regR1 = 0 := rfl
@[simp] theorem raiseAtIssue_cmd (c : ErrCode) (s : State) : (raiseAtIssue c s).cmd = s.cmd := rfl
@[simp] theorem raiseAtIssue_status (c : ErrCode) (s : State) : (raiseAtIssue c s).status = failIssue c s.status := rfl
@[simp] theorem raiseAtIssue_ctrl (c : ErrCode) (s : State) : (raiseAtIssue c s).ctrl = s.ctrl := rfl
@[simp] theorem raiseAtIssue_op (c : ErrCode) (s : State) : (raiseAtIssue c s).op = s.op := rfl
@[simp] theorem raiseAtIssue_rnds (c : ErrCode) (s : State) : (raiseAtIssue c s).rnds = s.rnds := rfl
@[simp] theorem raiseAtIssue_opA (c : ErrCode) (s : State) : (raiseAtIssue c s).opA = s.opA := rfl
@[simp] theorem raiseAtIssue_opB (c : ErrCode) (s : State) : (raiseAtIssue c s).opB = s.opB := rfl
@[simp] theorem raiseAtIssue_opN (c : ErrCode) (s : State) : (raiseAtIssue c s).opN = s.opN := rfl
@[simp] theorem raiseAtIssue_work (c : ErrCode) (s : State) : (raiseAtIssue c s).work = s.work := rfl
@[simp] theorem raiseAtIssue_rstLine (c : ErrCode) (s : State) : (raiseAtIssue c s).rstLine = s.rstLine := rfl
@[simp] theorem raiseAtIssue_sourceAnswers (c : ErrCode) (s : State) : (raiseAtIssue c s).sourceAnswers = s.sourceAnswers := rfl
@[simp] theorem raiseAtIssue_rhoWords (c : ErrCode) (s : State) : (raiseAtIssue c s).rhoWords = s.rhoWords := rfl
@[simp] theorem raiseAtIssue_cursor (c : ErrCode) (s : State) : (raiseAtIssue c s).cursor = s.cursor := rfl
@[simp] theorem raiseAtIssue_draws (c : ErrCode) (s : State) : (raiseAtIssue c s).draws = s.draws := rfl
@[simp] theorem raiseAtIssue_agenda (c : ErrCode) (s : State) : (raiseAtIssue c s).agenda = s.agenda := rfl
@[simp] theorem raiseAtIssue_port (c : ErrCode) (s : State) : (raiseAtIssue c s).port = s.port := rfl
@[simp] theorem raiseAtIssue_bound (c : ErrCode) (s : State) : (raiseAtIssue c s).bound = s.bound := rfl

@[simp] theorem writeStatus_params (v : BusWord) (s : State) : (writeStatus v s).params = s.params := rfl
@[simp] theorem writeStatus_regA (v : BusWord) (s : State) : (writeStatus v s).regA = s.regA := rfl
@[simp] theorem writeStatus_regB (v : BusWord) (s : State) : (writeStatus v s).regB = s.regB := rfl
@[simp] theorem writeStatus_regN (v : BusWord) (s : State) : (writeStatus v s).regN = s.regN := rfl
@[simp] theorem writeStatus_regR0 (v : BusWord) (s : State) : (writeStatus v s).regR0 = s.regR0 := rfl
@[simp] theorem writeStatus_regR1 (v : BusWord) (s : State) : (writeStatus v s).regR1 = s.regR1 := rfl
@[simp] theorem writeStatus_cmd (v : BusWord) (s : State) : (writeStatus v s).cmd = s.cmd := rfl
@[simp] theorem writeStatus_status (v : BusWord) (s : State) : (writeStatus v s).status = clearFlags v s.status := rfl
@[simp] theorem writeStatus_ctrl (v : BusWord) (s : State) : (writeStatus v s).ctrl = s.ctrl := rfl
@[simp] theorem writeStatus_op (v : BusWord) (s : State) : (writeStatus v s).op = s.op := rfl
@[simp] theorem writeStatus_rnds (v : BusWord) (s : State) : (writeStatus v s).rnds = s.rnds := rfl
@[simp] theorem writeStatus_opA (v : BusWord) (s : State) : (writeStatus v s).opA = s.opA := rfl
@[simp] theorem writeStatus_opB (v : BusWord) (s : State) : (writeStatus v s).opB = s.opB := rfl
@[simp] theorem writeStatus_opN (v : BusWord) (s : State) : (writeStatus v s).opN = s.opN := rfl
@[simp] theorem writeStatus_work (v : BusWord) (s : State) : (writeStatus v s).work = s.work := rfl
@[simp] theorem writeStatus_rstLine (v : BusWord) (s : State) : (writeStatus v s).rstLine = s.rstLine := rfl
@[simp] theorem writeStatus_sourceAnswers (v : BusWord) (s : State) : (writeStatus v s).sourceAnswers = s.sourceAnswers := rfl
@[simp] theorem writeStatus_rhoWords (v : BusWord) (s : State) : (writeStatus v s).rhoWords = s.rhoWords := rfl
@[simp] theorem writeStatus_cursor (v : BusWord) (s : State) : (writeStatus v s).cursor = s.cursor := rfl
@[simp] theorem writeStatus_draws (v : BusWord) (s : State) : (writeStatus v s).draws = s.draws := rfl
@[simp] theorem writeStatus_agenda (v : BusWord) (s : State) : (writeStatus v s).agenda = s.agenda := rfl
@[simp] theorem writeStatus_port (v : BusWord) (s : State) : (writeStatus v s).port = s.port := rfl
@[simp] theorem writeStatus_bound (v : BusWord) (s : State) : (writeStatus v s).bound = s.bound := rfl

@[simp] theorem storeCommand_params (w : BusWord) (s : State) : (storeCommand w s).params = s.params := rfl
@[simp] theorem storeCommand_regA (w : BusWord) (s : State) : (storeCommand w s).regA = s.regA := rfl
@[simp] theorem storeCommand_regB (w : BusWord) (s : State) : (storeCommand w s).regB = s.regB := rfl
@[simp] theorem storeCommand_regN (w : BusWord) (s : State) : (storeCommand w s).regN = s.regN := rfl
@[simp] theorem storeCommand_regR0 (w : BusWord) (s : State) : (storeCommand w s).regR0 = s.regR0 := rfl
@[simp] theorem storeCommand_regR1 (w : BusWord) (s : State) : (storeCommand w s).regR1 = s.regR1 := rfl
@[simp] theorem storeCommand_cmd (w : BusWord) (s : State) : (storeCommand w s).cmd = w := rfl
@[simp] theorem storeCommand_status (w : BusWord) (s : State) : (storeCommand w s).status = openIssue s.status := rfl
@[simp] theorem storeCommand_ctrl (w : BusWord) (s : State) : (storeCommand w s).ctrl = s.ctrl := rfl
@[simp] theorem storeCommand_op (w : BusWord) (s : State) : (storeCommand w s).op = s.op := rfl
@[simp] theorem storeCommand_rnds (w : BusWord) (s : State) : (storeCommand w s).rnds = s.rnds := rfl
@[simp] theorem storeCommand_opA (w : BusWord) (s : State) : (storeCommand w s).opA = s.opA := rfl
@[simp] theorem storeCommand_opB (w : BusWord) (s : State) : (storeCommand w s).opB = s.opB := rfl
@[simp] theorem storeCommand_opN (w : BusWord) (s : State) : (storeCommand w s).opN = s.opN := rfl
@[simp] theorem storeCommand_work (w : BusWord) (s : State) : (storeCommand w s).work = s.work := rfl
@[simp] theorem storeCommand_rstLine (w : BusWord) (s : State) : (storeCommand w s).rstLine = s.rstLine := rfl
@[simp] theorem storeCommand_sourceAnswers (w : BusWord) (s : State) : (storeCommand w s).sourceAnswers = s.sourceAnswers := rfl
@[simp] theorem storeCommand_rhoWords (w : BusWord) (s : State) : (storeCommand w s).rhoWords = s.rhoWords := rfl
@[simp] theorem storeCommand_cursor (w : BusWord) (s : State) : (storeCommand w s).cursor = s.cursor := rfl
@[simp] theorem storeCommand_draws (w : BusWord) (s : State) : (storeCommand w s).draws = s.draws := rfl
@[simp] theorem storeCommand_agenda (w : BusWord) (s : State) : (storeCommand w s).agenda = s.agenda := rfl
@[simp] theorem storeCommand_port (w : BusWord) (s : State) : (storeCommand w s).port = s.port := rfl
@[simp] theorem storeCommand_bound (w : BusWord) (s : State) : (storeCommand w s).bound = s.bound := rfl

@[simp] theorem latch_params (w : BusWord) (s : State) : (latch w s).params = s.params := rfl
@[simp] theorem latch_regA (w : BusWord) (s : State) : (latch w s).regA = s.regA := rfl
@[simp] theorem latch_regB (w : BusWord) (s : State) : (latch w s).regB = s.regB := rfl
@[simp] theorem latch_regN (w : BusWord) (s : State) : (latch w s).regN = s.regN := rfl
@[simp] theorem latch_regR0 (w : BusWord) (s : State) : (latch w s).regR0 = s.regR0 := rfl
@[simp] theorem latch_regR1 (w : BusWord) (s : State) : (latch w s).regR1 = s.regR1 := rfl
@[simp] theorem latch_cmd (w : BusWord) (s : State) : (latch w s).cmd = s.cmd := rfl
@[simp] theorem latch_status (w : BusWord) (s : State) : (latch w s).status = s.status := rfl
@[simp] theorem latch_ctrl (w : BusWord) (s : State) : (latch w s).ctrl = s.ctrl := rfl
@[simp] theorem latch_op (w : BusWord) (s : State) : (latch w s).op = fieldOp w := rfl
@[simp] theorem latch_rnds (w : BusWord) (s : State) : (latch w s).rnds = fieldRounds w := rfl
@[simp] theorem latch_opA (w : BusWord) (s : State) : (latch w s).opA = s.regA := rfl
@[simp] theorem latch_opB (w : BusWord) (s : State) : (latch w s).opB = s.regB := rfl
@[simp] theorem latch_opN (w : BusWord) (s : State) : (latch w s).opN = s.regN := rfl
@[simp] theorem latch_work (w : BusWord) (s : State) : (latch w s).work = s.work := rfl
@[simp] theorem latch_rstLine (w : BusWord) (s : State) : (latch w s).rstLine = s.rstLine := rfl
@[simp] theorem latch_sourceAnswers (w : BusWord) (s : State) : (latch w s).sourceAnswers = s.sourceAnswers := rfl
@[simp] theorem latch_rhoWords (w : BusWord) (s : State) : (latch w s).rhoWords = s.rhoWords := rfl
@[simp] theorem latch_cursor (w : BusWord) (s : State) : (latch w s).cursor = s.cursor := rfl
@[simp] theorem latch_draws (w : BusWord) (s : State) : (latch w s).draws = s.draws := rfl
@[simp] theorem latch_agenda (w : BusWord) (s : State) : (latch w s).agenda = s.agenda := rfl
@[simp] theorem latch_port (w : BusWord) (s : State) : (latch w s).port = s.port := rfl
@[simp] theorem latch_bound (w : BusWord) (s : State) : (latch w s).bound = s.bound := rfl

@[simp] theorem refuseWord_params (w : BusWord) (s : State) : (refuseWord w s).params = s.params := rfl
@[simp] theorem refuseWord_regA (w : BusWord) (s : State) : (refuseWord w s).regA = s.regA := rfl
@[simp] theorem refuseWord_regB (w : BusWord) (s : State) : (refuseWord w s).regB = s.regB := rfl
@[simp] theorem refuseWord_regN (w : BusWord) (s : State) : (refuseWord w s).regN = s.regN := rfl
@[simp] theorem refuseWord_regR0 (w : BusWord) (s : State) : (refuseWord w s).regR0 = 0 := rfl
@[simp] theorem refuseWord_regR1 (w : BusWord) (s : State) : (refuseWord w s).regR1 = 0 := rfl
@[simp] theorem refuseWord_cmd (w : BusWord) (s : State) : (refuseWord w s).cmd = w := rfl
@[simp] theorem refuseWord_status (w : BusWord) (s : State) : (refuseWord w s).status = failIssue .illegalCommand (openIssue s.status) := rfl
@[simp] theorem refuseWord_ctrl (w : BusWord) (s : State) : (refuseWord w s).ctrl = s.ctrl := rfl
@[simp] theorem refuseWord_op (w : BusWord) (s : State) : (refuseWord w s).op = s.op := rfl
@[simp] theorem refuseWord_rnds (w : BusWord) (s : State) : (refuseWord w s).rnds = s.rnds := rfl
@[simp] theorem refuseWord_opA (w : BusWord) (s : State) : (refuseWord w s).opA = s.opA := rfl
@[simp] theorem refuseWord_opB (w : BusWord) (s : State) : (refuseWord w s).opB = s.opB := rfl
@[simp] theorem refuseWord_opN (w : BusWord) (s : State) : (refuseWord w s).opN = s.opN := rfl
@[simp] theorem refuseWord_work (w : BusWord) (s : State) : (refuseWord w s).work = s.work := rfl
@[simp] theorem refuseWord_rstLine (w : BusWord) (s : State) : (refuseWord w s).rstLine = s.rstLine := rfl
@[simp] theorem refuseWord_sourceAnswers (w : BusWord) (s : State) : (refuseWord w s).sourceAnswers = s.sourceAnswers := rfl
@[simp] theorem refuseWord_rhoWords (w : BusWord) (s : State) : (refuseWord w s).rhoWords = s.rhoWords := rfl
@[simp] theorem refuseWord_cursor (w : BusWord) (s : State) : (refuseWord w s).cursor = s.cursor := rfl
@[simp] theorem refuseWord_draws (w : BusWord) (s : State) : (refuseWord w s).draws = s.draws := rfl
@[simp] theorem refuseWord_agenda (w : BusWord) (s : State) : (refuseWord w s).agenda = s.agenda.tail := rfl
@[simp] theorem refuseWord_port (w : BusWord) (s : State) : (refuseWord w s).port = .written := rfl
@[simp] theorem refuseWord_bound (w : BusWord) (s : State) : (refuseWord w s).bound = s.bound := rfl

@[simp] theorem dropWord_params (s : State) : (dropWord s).params = s.params := rfl
@[simp] theorem dropWord_regA (s : State) : (dropWord s).regA = s.regA := rfl
@[simp] theorem dropWord_regB (s : State) : (dropWord s).regB = s.regB := rfl
@[simp] theorem dropWord_regN (s : State) : (dropWord s).regN = s.regN := rfl
@[simp] theorem dropWord_regR0 (s : State) : (dropWord s).regR0 = s.regR0 := rfl
@[simp] theorem dropWord_regR1 (s : State) : (dropWord s).regR1 = s.regR1 := rfl
@[simp] theorem dropWord_cmd (s : State) : (dropWord s).cmd = s.cmd := rfl
@[simp] theorem dropWord_status (s : State) : (dropWord s).status = { s.status with ovr := true } := rfl
@[simp] theorem dropWord_ctrl (s : State) : (dropWord s).ctrl = s.ctrl := rfl
@[simp] theorem dropWord_op (s : State) : (dropWord s).op = s.op := rfl
@[simp] theorem dropWord_rnds (s : State) : (dropWord s).rnds = s.rnds := rfl
@[simp] theorem dropWord_opA (s : State) : (dropWord s).opA = s.opA := rfl
@[simp] theorem dropWord_opB (s : State) : (dropWord s).opB = s.opB := rfl
@[simp] theorem dropWord_opN (s : State) : (dropWord s).opN = s.opN := rfl
@[simp] theorem dropWord_work (s : State) : (dropWord s).work = s.work := rfl
@[simp] theorem dropWord_rstLine (s : State) : (dropWord s).rstLine = s.rstLine := rfl
@[simp] theorem dropWord_sourceAnswers (s : State) : (dropWord s).sourceAnswers = s.sourceAnswers := rfl
@[simp] theorem dropWord_rhoWords (s : State) : (dropWord s).rhoWords = s.rhoWords := rfl
@[simp] theorem dropWord_cursor (s : State) : (dropWord s).cursor = s.cursor := rfl
@[simp] theorem dropWord_draws (s : State) : (dropWord s).draws = s.draws := rfl
@[simp] theorem dropWord_agenda (s : State) : (dropWord s).agenda = s.agenda.tail := rfl
@[simp] theorem dropWord_port (s : State) : (dropWord s).port = .written := rfl
@[simp] theorem dropWord_bound (s : State) : (dropWord s).bound = s.bound := rfl

@[simp] theorem complete_params (u : UnitResult) (s : State) : (complete u s).params = s.params := rfl
@[simp] theorem complete_regA (u : UnitResult) (s : State) : (complete u s).regA = s.regA := rfl
@[simp] theorem complete_regB (u : UnitResult) (s : State) : (complete u s).regB = s.regB := rfl
@[simp] theorem complete_regN (u : UnitResult) (s : State) : (complete u s).regN = s.regN := rfl
@[simp] theorem complete_regR0 (u : UnitResult) (s : State) : (complete u s).regR0 = u.r0 := rfl
@[simp] theorem complete_regR1 (u : UnitResult) (s : State) : (complete u s).regR1 = u.r1 := rfl
@[simp] theorem complete_cmd (u : UnitResult) (s : State) : (complete u s).cmd = s.cmd := rfl
@[simp] theorem complete_status (u : UnitResult) (s : State) : (complete u s).status = endRun u.err s.status := rfl
@[simp] theorem complete_ctrl (u : UnitResult) (s : State) : (complete u s).ctrl = s.ctrl := rfl
@[simp] theorem complete_op (u : UnitResult) (s : State) : (complete u s).op = s.op := rfl
@[simp] theorem complete_rnds (u : UnitResult) (s : State) : (complete u s).rnds = s.rnds := rfl
@[simp] theorem complete_opA (u : UnitResult) (s : State) : (complete u s).opA = s.opA := rfl
@[simp] theorem complete_opB (u : UnitResult) (s : State) : (complete u s).opB = s.opB := rfl
@[simp] theorem complete_opN (u : UnitResult) (s : State) : (complete u s).opN = s.opN := rfl
@[simp] theorem complete_work (u : UnitResult) (s : State) : (complete u s).work = u.work := rfl
@[simp] theorem complete_rstLine (u : UnitResult) (s : State) : (complete u s).rstLine = s.rstLine := rfl
@[simp] theorem complete_sourceAnswers (u : UnitResult) (s : State) : (complete u s).sourceAnswers = s.sourceAnswers := rfl
@[simp] theorem complete_rhoWords (u : UnitResult) (s : State) : (complete u s).rhoWords = s.rhoWords := rfl
@[simp] theorem complete_cursor (u : UnitResult) (s : State) : (complete u s).cursor = u.cursor := rfl
@[simp] theorem complete_draws (u : UnitResult) (s : State) : (complete u s).draws = s.draws := rfl
@[simp] theorem complete_agenda (u : UnitResult) (s : State) : (complete u s).agenda = s.agenda.tail := rfl
@[simp] theorem complete_port (u : UnitResult) (s : State) : (complete u s).port = s.port := rfl
@[simp] theorem complete_bound (u : UnitResult) (s : State) : (complete u s).bound = s.bound := rfl

@[simp] theorem resetHardware_params (s : State) : (resetHardware s).params = s.params := rfl
@[simp] theorem resetHardware_regA (s : State) : (resetHardware s).regA = 0 := rfl
@[simp] theorem resetHardware_regB (s : State) : (resetHardware s).regB = 0 := rfl
@[simp] theorem resetHardware_regN (s : State) : (resetHardware s).regN = 0 := rfl
@[simp] theorem resetHardware_regR0 (s : State) : (resetHardware s).regR0 = 0 := rfl
@[simp] theorem resetHardware_regR1 (s : State) : (resetHardware s).regR1 = 0 := rfl
@[simp] theorem resetHardware_cmd (s : State) : (resetHardware s).cmd = 0 := rfl
@[simp] theorem resetHardware_status (s : State) : (resetHardware s).status = { busy := false, done := false, ovr := false, err := .none } := rfl
@[simp] theorem resetHardware_ctrl (s : State) : (resetHardware s).ctrl = { ie := false } := rfl
@[simp] theorem resetHardware_op (s : State) : (resetHardware s).op = 0 := rfl
@[simp] theorem resetHardware_rnds (s : State) : (resetHardware s).rnds = 0 := rfl
@[simp] theorem resetHardware_opA (s : State) : (resetHardware s).opA = 0 := rfl
@[simp] theorem resetHardware_opB (s : State) : (resetHardware s).opB = 0 := rfl
@[simp] theorem resetHardware_opN (s : State) : (resetHardware s).opN = 0 := rfl
@[simp] theorem resetHardware_work (s : State) : (resetHardware s).work = Working.reset := rfl
@[simp] theorem resetHardware_rstLine (s : State) : (resetHardware s).rstLine = s.rstLine := rfl
@[simp] theorem resetHardware_sourceAnswers (s : State) : (resetHardware s).sourceAnswers = s.sourceAnswers := rfl
@[simp] theorem resetHardware_rhoWords (s : State) : (resetHardware s).rhoWords = s.rhoWords := rfl
@[simp] theorem resetHardware_cursor (s : State) : (resetHardware s).cursor = cursorAfterReset s := rfl
@[simp] theorem resetHardware_draws (s : State) : (resetHardware s).draws = s.draws + 1 := rfl
@[simp] theorem resetHardware_agenda (s : State) : (resetHardware s).agenda = s.agenda := rfl
@[simp] theorem resetHardware_port (s : State) : (resetHardware s).port = s.port := rfl
@[simp] theorem resetHardware_bound (s : State) : (resetHardware s).bound = s.bound := rfl

@[simp] theorem sourceTurn_params (b : Bool) (s : State) : (sourceTurn b s).params = s.params := rfl
@[simp] theorem sourceTurn_regA (b : Bool) (s : State) : (sourceTurn b s).regA = s.regA := rfl
@[simp] theorem sourceTurn_regB (b : Bool) (s : State) : (sourceTurn b s).regB = s.regB := rfl
@[simp] theorem sourceTurn_regN (b : Bool) (s : State) : (sourceTurn b s).regN = s.regN := rfl
@[simp] theorem sourceTurn_regR0 (b : Bool) (s : State) : (sourceTurn b s).regR0 = s.regR0 := rfl
@[simp] theorem sourceTurn_regR1 (b : Bool) (s : State) : (sourceTurn b s).regR1 = s.regR1 := rfl
@[simp] theorem sourceTurn_cmd (b : Bool) (s : State) : (sourceTurn b s).cmd = s.cmd := rfl
@[simp] theorem sourceTurn_status (b : Bool) (s : State) : (sourceTurn b s).status = s.status := rfl
@[simp] theorem sourceTurn_ctrl (b : Bool) (s : State) : (sourceTurn b s).ctrl = s.ctrl := rfl
@[simp] theorem sourceTurn_op (b : Bool) (s : State) : (sourceTurn b s).op = s.op := rfl
@[simp] theorem sourceTurn_rnds (b : Bool) (s : State) : (sourceTurn b s).rnds = s.rnds := rfl
@[simp] theorem sourceTurn_opA (b : Bool) (s : State) : (sourceTurn b s).opA = s.opA := rfl
@[simp] theorem sourceTurn_opB (b : Bool) (s : State) : (sourceTurn b s).opB = s.opB := rfl
@[simp] theorem sourceTurn_opN (b : Bool) (s : State) : (sourceTurn b s).opN = s.opN := rfl
@[simp] theorem sourceTurn_work (b : Bool) (s : State) : (sourceTurn b s).work = s.work := rfl
@[simp] theorem sourceTurn_rstLine (b : Bool) (s : State) : (sourceTurn b s).rstLine = s.rstLine := rfl
@[simp] theorem sourceTurn_sourceAnswers (b : Bool) (s : State) : (sourceTurn b s).sourceAnswers = b := rfl
@[simp] theorem sourceTurn_rhoWords (b : Bool) (s : State) : (sourceTurn b s).rhoWords = s.rhoWords := rfl
@[simp] theorem sourceTurn_cursor (b : Bool) (s : State) : (sourceTurn b s).cursor = s.cursor := rfl
@[simp] theorem sourceTurn_draws (b : Bool) (s : State) : (sourceTurn b s).draws = s.draws := rfl
@[simp] theorem sourceTurn_agenda (b : Bool) (s : State) : (sourceTurn b s).agenda = s.agenda.tail := rfl
@[simp] theorem sourceTurn_port (b : Bool) (s : State) : (sourceTurn b s).port = s.port := rfl
@[simp] theorem sourceTurn_bound (b : Bool) (s : State) : (sourceTurn b s).bound = s.bound := rfl

@[simp] theorem placeCommand_params (w : BusWord) (s : State) : (placeCommand w s).params = s.params := rfl
@[simp] theorem placeCommand_regA (w : BusWord) (s : State) : (placeCommand w s).regA = s.regA := rfl
@[simp] theorem placeCommand_regB (w : BusWord) (s : State) : (placeCommand w s).regB = s.regB := rfl
@[simp] theorem placeCommand_regN (w : BusWord) (s : State) : (placeCommand w s).regN = s.regN := rfl
@[simp] theorem placeCommand_regR0 (w : BusWord) (s : State) : (placeCommand w s).regR0 = s.regR0 := rfl
@[simp] theorem placeCommand_regR1 (w : BusWord) (s : State) : (placeCommand w s).regR1 = s.regR1 := rfl
@[simp] theorem placeCommand_cmd (w : BusWord) (s : State) : (placeCommand w s).cmd = s.cmd := rfl
@[simp] theorem placeCommand_status (w : BusWord) (s : State) : (placeCommand w s).status = { s.status with busy := false } := rfl
@[simp] theorem placeCommand_ctrl (w : BusWord) (s : State) : (placeCommand w s).ctrl = s.ctrl := rfl
@[simp] theorem placeCommand_op (w : BusWord) (s : State) : (placeCommand w s).op = s.op := rfl
@[simp] theorem placeCommand_rnds (w : BusWord) (s : State) : (placeCommand w s).rnds = s.rnds := rfl
@[simp] theorem placeCommand_opA (w : BusWord) (s : State) : (placeCommand w s).opA = s.opA := rfl
@[simp] theorem placeCommand_opB (w : BusWord) (s : State) : (placeCommand w s).opB = s.opB := rfl
@[simp] theorem placeCommand_opN (w : BusWord) (s : State) : (placeCommand w s).opN = s.opN := rfl
@[simp] theorem placeCommand_work (w : BusWord) (s : State) : (placeCommand w s).work = s.work := rfl
@[simp] theorem placeCommand_rstLine (w : BusWord) (s : State) : (placeCommand w s).rstLine = false := rfl
@[simp] theorem placeCommand_sourceAnswers (w : BusWord) (s : State) : (placeCommand w s).sourceAnswers = s.sourceAnswers := rfl
@[simp] theorem placeCommand_rhoWords (w : BusWord) (s : State) : (placeCommand w s).rhoWords = s.rhoWords := rfl
@[simp] theorem placeCommand_cursor (w : BusWord) (s : State) : (placeCommand w s).cursor = s.cursor := rfl
@[simp] theorem placeCommand_draws (w : BusWord) (s : State) : (placeCommand w s).draws = s.draws := rfl
@[simp] theorem placeCommand_agenda (w : BusWord) (s : State) : (placeCommand w s).agenda = .access (.write s.params.base 4 w) :: s.agenda := rfl
@[simp] theorem placeCommand_port (w : BusWord) (s : State) : (placeCommand w s).port = s.port := rfl
@[simp] theorem placeCommand_bound (w : BusWord) (s : State) : (placeCommand w s).bound = s.bound := rfl

@[simp] theorem clearFlags_busy (v : BusWord) (st : Status) : (clearFlags v st).busy = st.busy := rfl
@[simp] theorem clearFlags_done (v : BusWord) (st : Status) : (clearFlags v st).done = (st.done && !v.getLsbD 1) := rfl
@[simp] theorem clearFlags_ovr (v : BusWord) (st : Status) : (clearFlags v st).ovr = (st.ovr && !v.getLsbD 2) := rfl
@[simp] theorem clearFlags_err (v : BusWord) (st : Status) : (clearFlags v st).err = st.err := rfl

@[simp] theorem openIssue_busy (st : Status) : (openIssue st).busy = st.busy := rfl
@[simp] theorem openIssue_done (st : Status) : (openIssue st).done = false := rfl
@[simp] theorem openIssue_ovr (st : Status) : (openIssue st).ovr = st.ovr := rfl
@[simp] theorem openIssue_err (st : Status) : (openIssue st).err = .none := rfl

@[simp] theorem failIssue_busy (c : ErrCode) (st : Status) : (failIssue c st).busy = st.busy := rfl
@[simp] theorem failIssue_done (c : ErrCode) (st : Status) : (failIssue c st).done = true := rfl
@[simp] theorem failIssue_ovr (c : ErrCode) (st : Status) : (failIssue c st).ovr = st.ovr := rfl
@[simp] theorem failIssue_err (c : ErrCode) (st : Status) : (failIssue c st).err = c := rfl

@[simp] theorem startRun_busy (st : Status) : (startRun st).busy = true := rfl
@[simp] theorem startRun_done (st : Status) : (startRun st).done = st.done := rfl
@[simp] theorem startRun_ovr (st : Status) : (startRun st).ovr = st.ovr := rfl
@[simp] theorem startRun_err (st : Status) : (startRun st).err = st.err := rfl

@[simp] theorem endRun_busy (c : ErrCode) (st : Status) : (endRun c st).busy = false := rfl
@[simp] theorem endRun_done (c : ErrCode) (st : Status) : (endRun c st).done = true := rfl
@[simp] theorem endRun_ovr (c : ErrCode) (st : Status) : (endRun c st).ovr = st.ovr := rfl
@[simp] theorem endRun_err (c : ErrCode) (st : Status) : (endRun c st).err = c := rfl

end Sys2Proof.Machine
end

