-- ==== Sys2Proof/Laws/Ops.lean ====
section
/-! SUPPORT. One lemma per shared operation, saying once everything it can do; later proofs cite these and do not unfold
the operation. -/
namespace Sys2Proof.Machine

/-- The issue of a command refuses it for its modulus or starts it (R43). -/
theorem issue_cases (i : Instr) (s : State) :
    (needsModulus i = true ∧ s.regN < 2 ∧
      issue i s = raiseAtIssue .domainViolation (latch (encode i) (storeCommand (encode i) (answer .written (advance s))))) ∨
    ((needsModulus i = true → 2 ≤ s.regN) ∧
      issue i s =
        { latch (encode i) (storeCommand (encode i) (answer .written (advance s))) with
          status := startRun (openIssue s.status) }) := by
  unfold issue
  by_cases h : needsModulus i = true ∧ s.regN < 2
  · exact .inl ⟨h.1, h.2, if_pos h⟩
  · refine .inr ⟨fun hm => ?_, if_neg h⟩
    have : ¬s.regN < 2 := fun hn => h ⟨hm, hn⟩
    omega

/-- A command that goes on was idle and is issued, or was busy, in its domain, and is completed by its unit (R42, R43). -/
theorem runCommand_cases {i : Instr} {unit : State → UnitResult} {s t : State} (h : runCommand i unit s = .next t) :
    (s.status.busy = false ∧ t = issue i s) ∨
    (s.status.busy = true ∧ (needsModulus i = true → 2 ≤ s.opN) ∧ t = complete (unit s) s) := by
  unfold runCommand at h
  split at h
  · split at h
    · cases h
    · rename_i hb hm
      refine .inr ⟨hb, fun hn => ?_, ?_⟩
      · have : ¬s.opN < 2 := fun hl => hm ⟨hn, hl⟩
        omega
      · injection h with h; exact h.symm
  · rename_i hb
    refine .inl ⟨by simpa using hb, ?_⟩
    injection h with h; exact h.symm

/-- A command issued while idle goes on to its issue. -/
theorem runCommand_idle {i : Instr} {unit : State → UnitResult} {s : State} (h : s.status.busy = false) :
    runCommand i unit s = .next (issue i s) := by simp [runCommand, h]

/-- A command completed in its domain goes on to its completion. -/
theorem runCommand_busy {i : Instr} {unit : State → UnitResult} {s : State} (h : s.status.busy = true)
    (hd : needsModulus i = true → 2 ≤ s.opN) : runCommand i unit s = .next (complete (unit s) s) := by
  have : ¬(needsModulus i = true ∧ s.opN < 2) := fun hc => by have := hd hc.1; omega
  simp only [runCommand, h, if_true, if_neg this]

/-- A command that needs a modulus stops when completed below 2 (log 17). -/
theorem runCommand_below {i : Instr} {unit : State → UnitResult} {s : State} (h : s.status.busy = true)
    (hm : needsModulus i = true) (hn : s.opN < 2) : runCommand i unit s = .fault .modulusBelowTwo := by
  simp [runCommand, h, hm, hn]

/-- The unit that computes a command's outcome (R42's `Exec`). -/
def unitOf : Instr → State → UnitResult
  | .modmul => modmulUnit
  | .modpow => modpowUnit
  | .gcd => gcdUnit
  | .eeinv => eeinvUnit
  | .hasinv => hasinvUnit
  | .mrwit => mrwitUnit
  | .mrmulti _ => mrmultiUnit

/-- Every command is its two phases, but that MRMULTI may have to wait for the random source (R45). -/
theorem exec_eq (i : Instr) (s : State) :
    exec i s = if opcodeOf i = 7 ∧ waitsForSource s = true then .next (advance s)
      else runCommand i (unitOf i) s := by
  cases i <;> simp [exec, execModmul, execModpow, execGcd, execEeinv, execHasinv, execMrwit, execMrmulti, unitOf, opcodeOf]

/-- What a command that goes on did: waited, was issued, or was completed. -/
theorem exec_cases {i : Instr} {s t : State} (h : exec i s = .next t) :
    (opcodeOf i = 7 ∧ waitsForSource s = true ∧ t = advance s) ∨
    (s.status.busy = false ∧ t = issue i s) ∨
    (s.status.busy = true ∧ (needsModulus i = true → 2 ≤ s.opN) ∧ t = complete (unitOf i s) s) := by
  rw [exec_eq] at h
  split at h
  · rename_i hw
    injection h with h
    exact .inl ⟨hw.1, hw.2, h.symm⟩
  · exact .inr (runCommand_cases h)

/-- A command issued while idle goes on to its issue. -/
theorem exec_idle {i : Instr} {s : State} (h : s.status.busy = false) : exec i s = .next (issue i s) := by
  rw [exec_eq, runCommand_idle h]; simp [waitsForSource, h]

/-- A command completed in its domain, with no wait for the random source, goes on to its completion. -/
theorem exec_busy {i : Instr} {s : State} (h : s.status.busy = true) (hd : needsModulus i = true → 2 ≤ s.opN)
    (hw : opcodeOf i = 7 → waitsForSource s = false) :
    exec i s = .next (complete (unitOf i s) s) := by
  rw [exec_eq, runCommand_busy h hd, if_neg]
  rintro ⟨hm, hc⟩
  rw [hw hm] at hc; cases hc

/-- The wait for the random source, in the words of R45. -/
theorem waitsForSource_iff (s : State) :
    waitsForSource s = true ↔
      s.status.busy = true ∧ s.sourceAnswers = false ∧ 0 < min s.rnds.toNat (s.opN - 2) := by
  simp [waitsForSource, effectiveRounds]; tauto

/-- A reset keeps the cursor, or adds the words an abandoned MRMULTI had taken (R47, R212). -/
theorem cursorAfterReset_bounds (s : State) :
    s.cursor ≤ cursorAfterReset s ∧ cursorAfterReset s ≤ s.cursor + min s.rnds.toNat (s.opN - 2) ∧
      (s.status.busy = false ∨ s.op ≠ 7 → cursorAfterReset s = s.cursor) := by
  unfold cursorAfterReset
  split
  · rename_i h
    refine ⟨Nat.le_add_right _ _, ?_, fun hn => ?_⟩
    · have := Nat.mod_lt (Config.abandonedDraws s.draws) (Nat.add_one_pos (effectiveRounds s.opN s.rnds.toNat))
      simp only [effectiveRounds] at *
      omega
    · rcases hn with hn | hn
      · rw [h.1] at hn; cases hn
      · exact absurd h.2 hn
  · exact ⟨le_refl _, Nat.le_add_right _ _, fun _ => rfl⟩

/-- A host write to `CTRL` resets or sets `IE` (R34). -/
theorem writeCtrl_cases (v : BusWord) (s : State) :
    (v.getLsbD 1 = true ∧ writeCtrl v s = resetHardware s) ∨
    (v.getLsbD 1 = false ∧ writeCtrl v s = { s with ctrl := { ie := v.getLsbD 0 } }) := by
  unfold writeCtrl
  cases h : v.getLsbD 1 <;> simp

/-- A host write to a limb changes that operand register or nothing (R54, R55). -/
theorem writeLimb_cases (r : DataReg) (i : Nat) (v : BusWord) (s : State) :
    (r = .a ∧ writeLimb r i v s = { s with regA := withLimb s.regA i v }) ∨
    (r = .b ∧ writeLimb r i v s = { s with regB := withLimb s.regB i v }) ∨
    (r = .n ∧ writeLimb r i v s = { s with regN := withLimb s.regN i v }) ∨
    ((r = .r0 ∨ r = .r1) ∧ writeLimb r i v s = s) := by
  cases r <;> simp [writeLimb]

end Sys2Proof.Machine
end

