-- ==== Sys2Proof/Laws/PerInstr.lean ====
section
/-! SUPPORT. Statements for all commands, one lemma per constructor. The family Fields: the reserved fields of a command's
word are 0, its operation code is its row's, and every command but MRMULTI has `ROUNDS = 0` (R70, R74, R75). -/
namespace Sys2Proof.Laws.Fields

/-- What the fields of a command's word hold (R70, R74). -/
def Statement (i : Instr) : Prop :=
  i.wellFormed = true →
    fieldZ1 (encode i) = 0 ∧ fieldZ0 (encode i) = 0 ∧ (fieldOp (encode i)).toNat = opcodeOf i ∧
      (opcodeOf i ≠ 7 → fieldRounds (encode i) = 0)

theorem modmul : Statement .modmul := fun _ => by decide
theorem modpow : Statement .modpow := fun _ => by decide
theorem gcd : Statement .gcd := fun _ => by decide
theorem eeinv : Statement .eeinv := fun _ => by decide
theorem hasinv : Statement .hasinv := fun _ => by decide
theorem mrwit : Statement .mrwit := fun _ => by decide

theorem mrmulti (rounds : Nat) : Statement (.mrmulti rounds) := fun h => by
  have hr : rounds < 256 := by simpa [Instr.wellFormed] using h
  have h16 : (0 : BitVec 16).toNat = 0 := rfl
  have h4 : (0 : BitVec 4).toNat = 0 := rfl
  refine ⟨?_, ?_, ?_, fun h7 => absurd rfl h7⟩
  · apply BitVec.eq_of_toNat_eq
    simp only [fieldZ1, encode, h16, BitVec.extractLsb'_toNat, BitVec.toNat_ofNat, Nat.shiftRight_eq_div_pow]
    omega
  · apply BitVec.eq_of_toNat_eq
    simp only [fieldZ0, encode, h4, BitVec.extractLsb'_toNat, BitVec.toNat_ofNat, Nat.shiftRight_eq_div_pow]
    omega
  · simp only [fieldOp, encode, opcodeOf, BitVec.extractLsb'_toNat, BitVec.toNat_ofNat, Nat.shiftRight_eq_div_pow]
    omega

end Sys2Proof.Laws.Fields
end

