-- ==== Sys2Proof/Laws/Step.lean ====
section
/-! SUPPORT. What a turn and a step can be, said once. -/
namespace Sys2Proof.Machine

/-- An offset in the window is the distance from `BASE` (R51). -/
theorem windowOffset_eq_some {p : Params} {addr off : Nat} :
    windowOffset p addr = some off ↔ addr = p.base + off ∧ off < 4096 := by
  unfold windowOffset
  split
  · simp; omega
  · simp; omega

/-- The only legal access (R52). -/
theorem legalAccess_iff (size off : Nat) : legalAccess size off = true ↔ size = 4 ∧ off % 4 = 0 := by
  simp [legalAccess]

/-- What the port does with an access while `rst` is asserted (R210). -/
theorem accessTurn_held {a : Access} {s : State} (h : s.rstLine = true) :
    accessTurn a s = .settled (answer .notServed (advance s)) := by simp [accessTurn, h]

/-- What the port does with an access at an offset of the window. -/
theorem accessTurn_window {a : Access} {s : State} {off : Nat} (h : s.rstLine = false)
    (ho : windowOffset s.params (accessAddr a) = some off) : accessTurn a s = windowTurn off a s := by
  simp [accessTurn, h, ho]

/-- A legal read (R52, R58). -/
theorem accessTurn_read {s : State} {off : Nat} (h : s.rstLine = false) (hw : off < 4096) (ha : off % 4 = 0) :
    accessTurn (.read (s.params.base + off) 4) s =
      .settled (hostRead (locate s.params.limbs off) (advance s)) := by
  rw [accessTurn_window h (windowOffset_eq_some.2 ⟨rfl, hw⟩)]
  simp [windowTurn, accessSize, legalAccess, ha]

/-- A legal write, to `CMD` or elsewhere (R52). -/
theorem accessTurn_write {s : State} {off : Nat} {v : BusWord} (h : s.rstLine = false) (hw : off < 4096)
    (ha : off % 4 = 0) :
    accessTurn (.write (s.params.base + off) 4 v) s =
      if off = 0 then cmdWrite v s
      else .settled (hostWrite (locate s.params.limbs off) v (answer .written (advance s))) := by
  rw [accessTurn_window h (windowOffset_eq_some.2 ⟨rfl, hw⟩)]
  simp [windowTurn, accessSize, legalAccess, ha]

/-- A `CMD` write is dropped, refused as illegal, or runs its command (R189). -/
theorem cmdWrite_cases (v : BusWord) (s : State) :
    (s.status.busy = true ∧ cmdWrite v s = .settled (dropWord s)) ∨
    (s.status.busy = false ∧ (∃ e, decode v = .error e) ∧ cmdWrite v s = .settled (refuseWord v s)) ∨
    (∃ i, s.status.busy = false ∧ decode v = .ok i ∧ cmdWrite v s = .run i) := by
  unfold cmdWrite
  cases hb : s.status.busy <;> cases hd : decode v <;> simp

/-- Every turn of an access: not served, outside the window, a bus error, a read, a `CMD` write, or another write. -/
theorem accessTurn_cases (a : Access) (s : State) :
    (s.rstLine = true ∧ accessTurn a s = .settled (answer .notServed (advance s))) ∨
    (s.rstLine = false ∧ accessTurn a s = .settled (answer .notSelected (advance s))) ∨
    (s.rstLine = false ∧ accessTurn a s = .settled (answer .busError (advance s))) ∨
    (∃ off, s.rstLine = false ∧ off < 4096 ∧ off % 4 = 0 ∧ a = .read (s.params.base + off) 4 ∧
      accessTurn a s = .settled (hostRead (locate s.params.limbs off) (advance s))) ∨
    (∃ v, s.rstLine = false ∧ a = .write (s.params.base + 0) 4 v ∧ accessTurn a s = cmdWrite v s) ∨
    (∃ off v, s.rstLine = false ∧ off < 4096 ∧ off % 4 = 0 ∧ off ≠ 0 ∧ a = .write (s.params.base + off) 4 v ∧
      accessTurn a s = .settled (hostWrite (locate s.params.limbs off) v (answer .written (advance s)))) := by
  cases hr : s.rstLine with
  | true => exact .inl ⟨rfl, accessTurn_held hr⟩
  | false =>
    cases ho : windowOffset s.params (accessAddr a) with
    | none => exact .inr (.inl ⟨rfl, by simp [accessTurn, hr, ho]⟩)
    | some off =>
      obtain ⟨haddr, hoff⟩ := windowOffset_eq_some.1 ho
      by_cases hl : legalAccess (accessSize a) off = true
      · obtain ⟨hs, ha⟩ := (legalAccess_iff _ _).1 hl
        cases a with
        | read addr size =>
          simp only [accessAddr, accessSize] at haddr hs
          subst haddr hs
          exact .inr (.inr (.inr (.inl ⟨off, rfl, hoff, ha, rfl, accessTurn_read hr hoff ha⟩)))
        | write addr size v =>
          simp only [accessAddr, accessSize] at haddr hs
          subst haddr hs
          by_cases h0 : off = 0
          · subst h0
            exact .inr (.inr (.inr (.inr (.inl ⟨v, rfl, rfl, by
              rw [accessTurn_write hr hoff ha]; simp⟩))))
          · exact .inr (.inr (.inr (.inr (.inr ⟨off, v, rfl, hoff, ha, h0, rfl, by
              rw [accessTurn_write hr hoff ha]; simp [h0]⟩))))
      · refine .inr (.inr (.inl ⟨rfl, ?_⟩))
        rw [accessTurn_window hr ho]
        simp [windowTurn, hl]

/-- A read answers the location, or a fresh free value for a result limb while busy (R22, R58, R215). -/
theorem hostRead_cases (l : Location) (s : State) :
    (isResultLimb l = true ∧ s.status.busy = true ∧
      hostRead l s = { s with port := .data (Config.busyRead s.draws), draws := s.draws + 1 }) ∨
    ((isResultLimb l = false ∨ s.status.busy = false) ∧
      hostRead l s = { s with port := .data (readLocation s l) }) := by
  unfold hostRead
  cases isResultLimb l <;> cases s.status.busy <;> simp

/-- The engine's turn: nothing, the latched command, or a latch that names none (R42). -/
theorem engineTurn_cases (s : State) :
    ((s.rstLine = true ∨ s.status.busy = false) ∧ engineTurn s = .settled (advance s)) ∨
    (∃ i, s.rstLine = false ∧ s.status.busy = true ∧ commandOfOp s.op s.rnds.toNat = some i ∧
      engineTurn s = .run i) ∨
    (s.rstLine = false ∧ s.status.busy = true ∧ commandOfOp s.op s.rnds.toNat = none ∧
      engineTurn s = .stuck .noCommand) := by
  unfold engineTurn
  cases s.rstLine <;> cases s.status.busy <;> cases commandOfOp s.op s.rnds.toNat <;> simp

/-- Whose turn it is (R59). -/
theorem nextTurn_cases (s : State) :
    ((s.agenda = [] ∨ s.agenda.head? = some .engine) ∧ nextTurn s = engineTurn s) ∨
    (∃ a, s.agenda.head? = some (.access a) ∧ nextTurn s = accessTurn a s) ∨
    (∃ b, s.agenda.head? = some (.rst b) ∧ nextTurn s = .settled (rstTurn b s)) ∨
    (∃ b, s.agenda.head? = some (.source b) ∧ nextTurn s = .settled (sourceTurn b s)) := by
  unfold nextTurn
  cases s.agenda with
  | nil => simp
  | cons e rest => cases e <;> simp

/-- A step that goes on ran a command or settled its turn. -/
theorem step_cases {s t : State} (h : step s = .next t) :
    (∃ i, nextTurn s = .run i ∧ exec i s = .next t) ∨ nextTurn s = .settled t := by
  unfold step at h
  split at h
  · rename_i i hi; exact .inl ⟨i, hi, h⟩
  · rename_i u hu
    injection h with h
    exact .inr (hu.trans (by rw [h]))
  · cases h

/-- A step whose turn runs a command is that command. -/
theorem step_run {s : State} {i : Instr} (h : nextTurn s = .run i) : step s = exec i s := by simp [step, h]

/-- A step whose turn settles goes on there. -/
theorem step_settled {s t : State} (h : nextTurn s = .settled t) : step s = .next t := by simp [step, h]

/-- A step whose turn is stuck faults. -/
theorem step_stuck {s : State} {f : Fault} (h : nextTurn s = .stuck f) : step s = .fault f := by simp [step, h]

/-- The next turn is an access. -/
theorem nextTurn_access {s : State} {a : Access} (h : s.agenda.head? = some (.access a)) :
    nextTurn s = accessTurn a s := by
  unfold nextTurn
  cases ha : s.agenda with
  | nil => simp [ha] at h
  | cons e rest => simp only [ha, List.head?_cons, Option.some.injEq] at h; subst h; rfl

/-- The next turn is the engine's. -/
theorem nextTurn_engine {s : State} (h : s.agenda = [] ∨ s.agenda.head? = some .engine) :
    nextTurn s = engineTurn s := by
  unfold nextTurn
  cases ha : s.agenda with
  | nil => rfl
  | cons e rest =>
    simp only [ha, List.head?_cons, Option.some.injEq, List.cons_ne_nil, false_or] at h
    subst h; rfl

/-- EVERYTHING A STEP THAT GOES ON CAN BE: an idle or held engine turn, a command's completion, an access without effect,
a read, a `CMD` write dropped, refused as illegal or issued, another write, the `rst` line, the random source. -/
theorem step_effect {s t : State} (h : step s = .next t) :
    ((s.agenda = [] ∨ s.agenda.head? = some .engine) ∧ (s.rstLine = true ∨ s.status.busy = false) ∧
      t = advance s) ∨
    (∃ i, (s.agenda = [] ∨ s.agenda.head? = some .engine) ∧ s.rstLine = false ∧ s.status.busy = true ∧
      commandOfOp s.op s.rnds.toNat = some i ∧ exec i s = .next t) ∨
    (∃ a p, s.agenda.head? = some (.access a) ∧ t = answer p (advance s)) ∨
    (∃ off, s.rstLine = false ∧ off < 4096 ∧ off % 4 = 0 ∧
      s.agenda.head? = some (.access (.read (s.params.base + off) 4)) ∧
      t = hostRead (locate s.params.limbs off) (advance s)) ∨
    (∃ v, s.rstLine = false ∧ s.agenda.head? = some (.access (.write (s.params.base + 0) 4 v)) ∧
      s.status.busy = true ∧ t = dropWord s) ∨
    (∃ v, s.rstLine = false ∧ s.agenda.head? = some (.access (.write (s.params.base + 0) 4 v)) ∧
      s.status.busy = false ∧ (∃ e, decode v = .error e) ∧ t = refuseWord v s) ∨
    (∃ v i, s.rstLine = false ∧ s.agenda.head? = some (.access (.write (s.params.base + 0) 4 v)) ∧
      s.status.busy = false ∧ decode v = .ok i ∧ t = issue i s) ∨
    (∃ off v, s.rstLine = false ∧ off < 4096 ∧ off % 4 = 0 ∧ off ≠ 0 ∧
      s.agenda.head? = some (.access (.write (s.params.base + off) 4 v)) ∧
      t = hostWrite (locate s.params.limbs off) v (answer .written (advance s))) ∨
    (∃ b, s.agenda.head? = some (.rst b) ∧ t = rstTurn b s) ∨
    (∃ b, s.agenda.head? = some (.source b) ∧ t = sourceTurn b s) := by
  have hsettled : ∀ {u : State}, nextTurn s = .settled u → t = u := fun hu => by
    rw [step_settled hu] at h; injection h with h; exact h.symm
  rcases nextTurn_cases s with ⟨he, hn⟩ | ⟨a, ha, hn⟩ | ⟨b, hb, hn⟩ | ⟨b, hb, hn⟩
  · rcases engineTurn_cases s with ⟨hi, ht⟩ | ⟨i, hr, hb, hi, ht⟩ | ⟨hr, hb, hi, ht⟩
    · exact .inl ⟨he, hi, hsettled (hn.trans ht)⟩
    · exact .inr (.inl ⟨i, he, hr, hb, hi, by rw [← step_run (hn.trans ht)]; exact h⟩)
    · rw [step_stuck (hn.trans ht)] at h; cases h
  · rcases accessTurn_cases a s with ⟨_, ht⟩ | ⟨_, ht⟩ | ⟨_, ht⟩ | ⟨off, hr, ho, hm, rfl, ht⟩ | ⟨v, hr, rfl, ht⟩ |
      ⟨off, v, hr, ho, hm, h0, rfl, ht⟩
    · exact .inr (.inr (.inl ⟨a, _, ha, hsettled (hn.trans ht)⟩))
    · exact .inr (.inr (.inl ⟨a, _, ha, hsettled (hn.trans ht)⟩))
    · exact .inr (.inr (.inl ⟨a, _, ha, hsettled (hn.trans ht)⟩))
    · exact .inr (.inr (.inr (.inl ⟨off, hr, ho, hm, ha, hsettled (hn.trans ht)⟩)))
    · rcases cmdWrite_cases v s with ⟨hb, hc⟩ | ⟨hb, he, hc⟩ | ⟨i, hb, hd, hc⟩
      · exact .inr (.inr (.inr (.inr (.inl ⟨v, hr, ha, hb, hsettled (hn.trans (ht.trans hc))⟩))))
      · exact .inr (.inr (.inr (.inr (.inr (.inl ⟨v, hr, ha, hb, he, hsettled (hn.trans (ht.trans hc))⟩)))))
      · rw [step_run (hn.trans (ht.trans hc)), exec_idle hb] at h
        injection h with h
        exact .inr (.inr (.inr (.inr (.inr (.inr (.inl ⟨v, i, hr, ha, hb, hd, h.symm⟩))))))
    · exact .inr (.inr (.inr (.inr (.inr (.inr (.inr (.inl ⟨off, v, hr, ho, hm, h0, ha, hsettled (hn.trans ht)⟩)))))))
  · exact .inr (.inr (.inr (.inr (.inr (.inr (.inr (.inr (.inl ⟨b, hb, hsettled hn⟩))))))))
  · exact .inr (.inr (.inr (.inr (.inr (.inr (.inr (.inr (.inr ⟨b, hb, hsettled hn⟩))))))))

end Sys2Proof.Machine
end

