-- ==== Sys2Proof/Laws/Window.lean ====
section
/-! SUPPORT. Limbs of a register (R24, R54) and the address map (R53, R56), said once. -/
namespace Sys2Proof.Machine

theorem limbOf_toNat (v i : Nat) : (limbOf v i).toNat = v / 2 ^ (32 * i) % 2 ^ 32 := by
  simp [limbOf, BitVec.toNat_ofNat]

/-- The part of a value at and above a limb's place, after the limb below it is replaced (R54). -/
theorem withLimb_div (v i : Nat) (w : BusWord) :
    withLimb v i w / 2 ^ (32 * i) = v / 2 ^ (32 * (i + 1)) * 2 ^ 32 + w.toNat := by
  have hp : 0 < 2 ^ (32 * i) := Nat.two_pow_pos _
  have he : v / 2 ^ (32 * (i + 1)) * 2 ^ (32 * (i + 1)) + w.toNat * 2 ^ (32 * i) + v % 2 ^ (32 * i) =
      v % 2 ^ (32 * i) + 2 ^ (32 * i) * (v / 2 ^ (32 * (i + 1)) * 2 ^ 32 + w.toNat) := by
    rw [show 32 * (i + 1) = 32 * i + 32 by ring, pow_add]; ring
  unfold withLimb
  rw [he, Nat.add_mul_div_left _ _ hp, Nat.div_eq_of_lt (Nat.mod_lt _ hp), Nat.zero_add]

/-- The part of a value below a limb's place is kept (R54). -/
theorem withLimb_mod (v i : Nat) (w : BusWord) : withLimb v i w % 2 ^ (32 * i) = v % 2 ^ (32 * i) := by
  have he : v / 2 ^ (32 * (i + 1)) * 2 ^ (32 * (i + 1)) + w.toNat * 2 ^ (32 * i) + v % 2 ^ (32 * i) =
      v % 2 ^ (32 * i) + 2 ^ (32 * i) * (v / 2 ^ (32 * (i + 1)) * 2 ^ 32 + w.toNat) := by
    rw [show 32 * (i + 1) = 32 * i + 32 by ring, pow_add]; ring
  unfold withLimb
  rw [he, Nat.add_mul_mod_self_left, Nat.mod_mod]

/-- The part of a value above a limb is kept (R54). -/
theorem withLimb_div_succ (v i : Nat) (w : BusWord) :
    withLimb v i w / 2 ^ (32 * (i + 1)) = v / 2 ^ (32 * (i + 1)) := by
  have h := withLimb_div v i w
  rw [show 32 * (i + 1) = 32 * i + 32 by ring, pow_add, ← Nat.div_div_eq_div_mul, h, ← pow_add,
    show 32 * i + 32 = 32 * (i + 1) by ring]
  have := w.isLt
  omega

/-- A register keeps its width when a limb below `L` is written (R54). -/
theorem withLimb_lt {v i limbs : Nat} (w : BusWord) (hv : v < 2 ^ (32 * limbs)) (hi : i < limbs) :
    withLimb v i w < 2 ^ (32 * limbs) := by
  have hw := withLimb_div_succ v i w
  have hsplit : 2 ^ (32 * limbs) = 2 ^ (32 * (limbs - (i + 1))) * 2 ^ (32 * (i + 1)) := by
    rw [← pow_add]; congr 1; omega
  rw [hsplit] at hv ⊢
  rw [← Nat.div_lt_iff_lt_mul (Nat.two_pow_pos _)] at hv ⊢
  rw [hw]; exact hv

/-- The written limb reads back (R54). -/
theorem limbOf_withLimb_same (v i : Nat) (w : BusWord) : limbOf (withLimb v i w) i = w := by
  apply BitVec.eq_of_toNat_eq
  rw [limbOf_toNat, withLimb_div]
  have := w.isLt
  omega

/-- Every other limb reads as before (R54). -/
theorem limbOf_withLimb_other {v i k : Nat} (w : BusWord) (h : k ≠ i) : limbOf (withLimb v i w) k = limbOf v k := by
  apply BitVec.eq_of_toNat_eq
  rw [limbOf_toNat, limbOf_toNat]
  rcases Nat.lt_or_gt_of_ne h with hlt | hgt
  · have hsplit : 2 ^ (32 * i) = 2 ^ (32 * k) * 2 ^ 32 * 2 ^ (32 * (i - k - 1)) := by
      rw [← pow_add, ← pow_add]; congr 1; omega
    have hdvd : 2 ^ (32 * k) * 2 ^ 32 ∣ 2 ^ (32 * i) := ⟨_, hsplit⟩
    have hmod : ∀ x, x / 2 ^ (32 * k) % 2 ^ 32 = x % 2 ^ (32 * i) % (2 ^ (32 * k) * 2 ^ 32) / 2 ^ (32 * k) := fun x => by
      rw [Nat.mod_mod_of_dvd _ hdvd, Nat.mod_mul_right_div_self]
    rw [hmod, hmod, withLimb_mod]
  · have hsplit : 2 ^ (32 * k) = 2 ^ (32 * (i + 1)) * 2 ^ (32 * (k - (i + 1))) := by
      rw [← pow_add]; congr 1; omega
    rw [hsplit, ← Nat.div_div_eq_div_mul, ← Nat.div_div_eq_div_mul, withLimb_div_succ]

/-- A limb at or above `L` of a W-bit value is 0. -/
theorem limbOf_high {v i limbs : Nat} (hv : v < 2 ^ (32 * limbs)) (hi : limbs ≤ i) : limbOf v i = 0#32 := by
  apply BitVec.eq_of_toNat_eq
  rw [limbOf_toNat, Nat.div_eq_of_lt]
  · rfl
  · exact lt_of_lt_of_le hv (Nat.pow_le_pow_right (by norm_num) (by omega))

/-- Limb `i` of a data register stands at its register's base plus `4 · i` (R53), if the machine has it (R56). -/
theorem locate_limb (limbs : Nat) (r : DataReg) {i : Nat} (hi : i < 64) :
    locate limbs (limbBase r + 4 * i) = limbLocation limbs r i := by
  have hdiv : ∀ b : Nat, (b + 4 * i - b) / 4 = i := fun b => by omega
  cases r <;> simp only [limbBase, locate, hdiv]
  · rw [if_neg, if_neg, if_neg, if_neg, if_neg, if_pos] <;> omega
  · rw [if_neg, if_neg, if_neg, if_neg, if_neg, if_neg, if_pos] <;> omega
  · rw [if_neg, if_neg, if_neg, if_neg, if_neg, if_neg, if_neg, if_pos] <;> omega
  · rw [if_neg, if_neg, if_neg, if_neg, if_neg, if_neg, if_neg, if_neg, if_pos] <;> omega
  · rw [if_neg, if_neg, if_neg, if_neg, if_neg, if_neg, if_neg, if_neg, if_neg, if_pos] <;> omega

/-- A limb's location is a limb or reserved. -/
theorem limbLocation_cases (limbs : Nat) (r : DataReg) (i : Nat) :
    (i < limbs ∧ limbLocation limbs r i = .limb r i) ∨ (limbs ≤ i ∧ limbLocation limbs r i = .reserved) := by
  unfold limbLocation
  by_cases h : i < limbs
  · exact .inl ⟨h, if_pos h⟩
  · exact .inr ⟨by omega, if_neg h⟩

/-- Every location of the map: the four control registers at their offsets, a limb the machine has, or reserved (R53,
R56). -/
theorem locate_cases (limbs off : Nat) :
    (off = 0 ∧ locate limbs off = .cmd) ∨ (off = 4 ∧ locate limbs off = .status) ∨
    (off = 8 ∧ locate limbs off = .ctrl) ∨ (off = 12 ∧ locate limbs off = .cap) ∨
    (12 ≠ off ∧ 8 ≠ off ∧ 4 ≠ off ∧ 0 ≠ off ∧
      ((∃ r i, i < limbs ∧ locate limbs off = .limb r i) ∨ locate limbs off = .reserved)) := by
  by_cases h0 : off = 0
  · exact .inl ⟨h0, by simp [locate, h0]⟩
  by_cases h4 : off = 4
  · exact .inr (.inl ⟨h4, by simp [locate, h4]⟩)
  by_cases h8 : off = 8
  · exact .inr (.inr (.inl ⟨h8, by simp [locate, h8]⟩))
  by_cases h12 : off = 12
  · exact .inr (.inr (.inr (.inl ⟨h12, by simp [locate, h12]⟩)))
  refine .inr (.inr (.inr (.inr ⟨Ne.symm h12, Ne.symm h8, Ne.symm h4, Ne.symm h0, ?_⟩)))
  have hlimb : ∀ r i, (∃ r' i', i' < limbs ∧ limbLocation limbs r i = .limb r' i') ∨
      limbLocation limbs r i = .reserved := fun r i => by
    rcases limbLocation_cases limbs r i with ⟨h, he⟩ | ⟨_, he⟩
    · exact .inl ⟨r, i, h, he⟩
    · exact .inr he
  unfold locate
  rw [if_neg h0, if_neg h4, if_neg h8, if_neg h12]
  by_cases h1 : off < 0x100
  · exact .inr (if_pos h1)
  rw [if_neg h1]
  by_cases h2 : off < 0x200
  · rw [if_pos h2]; exact hlimb _ _
  rw [if_neg h2]
  by_cases h3 : off < 0x300
  · rw [if_pos h3]; exact hlimb _ _
  rw [if_neg h3]
  by_cases h5 : off < 0x400
  · rw [if_pos h5]; exact hlimb _ _
  rw [if_neg h5]
  by_cases h6 : off < 0x500
  · rw [if_pos h6]; exact hlimb _ _
  rw [if_neg h6]
  by_cases h7 : off < 0x600
  · rw [if_pos h7]; exact hlimb _ _
  exact .inr (if_neg h7)

/-- A write elsewhere than to `CMD` clears flags, resets, sets `IE`, sets an operand limb the machine has, or does nothing
(R58). -/
theorem hostWrite_cases {limbs off : Nat} (h0 : off ≠ 0) (v : BusWord) (s : State) :
    (off = 4 ∧ hostWrite (locate limbs off) v s = writeStatus v s) ∨
    (off = 8 ∧ v.getLsbD 1 = true ∧ hostWrite (locate limbs off) v s = resetHardware s) ∨
    (off = 8 ∧ v.getLsbD 1 = false ∧
      hostWrite (locate limbs off) v s = { s with ctrl := { ie := v.getLsbD 0 } }) ∨
    (off ≠ 4 ∧ off ≠ 8 ∧ ∃ i, i < limbs ∧
      (hostWrite (locate limbs off) v s = { s with regA := withLimb s.regA i v } ∨
        hostWrite (locate limbs off) v s = { s with regB := withLimb s.regB i v } ∨
        hostWrite (locate limbs off) v s = { s with regN := withLimb s.regN i v })) ∨
    (off ≠ 4 ∧ off ≠ 8 ∧ hostWrite (locate limbs off) v s = s) := by
  rcases locate_cases limbs off with ⟨h, _⟩ | ⟨h, he⟩ | ⟨h, he⟩ | ⟨h, he⟩ | ⟨_, h8, h4, _, ⟨r, i, hi, he⟩ | he⟩
  · exact absurd h h0
  · exact .inl ⟨h, by rw [he]; rfl⟩
  · rw [he]
    rcases writeCtrl_cases v s with ⟨hv, hw⟩ | ⟨hv, hw⟩
    · exact .inr (.inl ⟨h, hv, hw⟩)
    · exact .inr (.inr (.inl ⟨h, hv, hw⟩))
  · exact .inr (.inr (.inr (.inr ⟨by omega, by omega, by rw [he]; rfl⟩)))
  · rw [he]
    rcases writeLimb_cases r i v s with ⟨_, hw⟩ | ⟨_, hw⟩ | ⟨_, hw⟩ | ⟨_, hw⟩
    · exact .inr (.inr (.inr (.inl ⟨Ne.symm h4, Ne.symm h8, i, hi, .inl hw⟩)))
    · exact .inr (.inr (.inr (.inl ⟨Ne.symm h4, Ne.symm h8, i, hi, .inr (.inl hw)⟩)))
    · exact .inr (.inr (.inr (.inl ⟨Ne.symm h4, Ne.symm h8, i, hi, .inr (.inr hw)⟩)))
    · exact .inr (.inr (.inr (.inr ⟨Ne.symm h4, Ne.symm h8, hw⟩)))
  · exact .inr (.inr (.inr (.inr ⟨Ne.symm h4, Ne.symm h8, by rw [he]; rfl⟩)))

end Sys2Proof.Machine
end

