-- ==== Sys2Proof/Tests/Slice0.lean ====
section
/-! SUPPORT. The model's own tests: well-formedness, decoding, vectors of 95_test_vectors.md, and a witness for the
hypotheses of every statement. Expected values are the spec's, never the model's own answers. -/
namespace Sys2Proof.Tests
open Sys2Proof Sys2Proof.Machine Sys2Proof.Safety

/-! ### Well-formedness: an ill-formed term for each check (R6, R72) -/

theorem test_wellFormed_refuses_256_rounds : (Instr.mrmulti 256).wellFormed = false := by decide
theorem test_params_refuse_no_limb : (Params.wellFormed { limbs := 0, base := 0 }) = false := by decide
theorem test_params_refuse_65_limbs : (Params.wellFormed { limbs := 65, base := 0 }) = false := by decide
theorem test_params_refuse_unaligned_base : (Params.wellFormed { limbs := 8, base := 1 }) = false := by decide
theorem test_params_reference : Params.reference.wellFormed = true ∧ Params.reference.width = 256 := by decide

/-! ### Decoding: words written out bit by bit from the format and the opcode map (R70, R75) -/

theorem test_decode_modmul : decode 0b0000000000000000_00000000_0000_0001#32 = .ok .modmul := rfl
theorem test_decode_modpow : decode 0b0000000000000000_00000000_0000_0010#32 = .ok .modpow := rfl
theorem test_decode_gcd : decode 0b0000000000000000_00000000_0000_0011#32 = .ok .gcd := rfl
theorem test_decode_eeinv : decode 0b0000000000000000_00000000_0000_0100#32 = .ok .eeinv := rfl
theorem test_decode_hasinv : decode 0b0000000000000000_00000000_0000_0101#32 = .ok .hasinv := rfl
theorem test_decode_mrwit : decode 0b0000000000000000_00000000_0000_0110#32 = .ok .mrwit := rfl
theorem test_decode_mrmulti : decode 0b0000000000000000_00001010_0000_0111#32 = .ok (.mrmulti 10) := rfl
/-- V-ENC-11 to V-ENC-20. -/
theorem test_decode_refuses :
    decode 0x0000000F#32 = .error .reservedOp ∧ decode 0x80000007#32 = .error .reservedHigh ∧
      decode 0xFFFFFFFF#32 = .error .reservedHigh ∧ decode 0x00000106#32 = .error .roundsNotAllowed ∧
      decode 0x000000F7#32 = .error .reservedLow := ⟨rfl, rfl, rfl, rfl, rfl⟩
/-- R57: the bytes of a command on a byte-addressed bus, the lowest address first. -/
theorem test_decode_bytes : decodeBytes [0x07#8, 0x0A#8, 0x00#8, 0x00#8, 0xFF#8] = some (.mrmulti 10, [0xFF#8]) := rfl

/-! ### Small states -/

/-- A running command with these latched operands, on the reference machine. -/
def running (op : BitVec 4) (a b n : Nat) : State :=
  { State.reset with op := op, opA := a, opB := b, opN := n, status := { State.reset.status with busy := true } }

/-- A running MRMULTI with an injected random stream. -/
def runningMulti (n : Nat) (rounds : BitVec 8) (rho : List Nat) : State :=
  { running 7 0 0 n with rnds := rounds, rhoWords := rho }

/-- Idle, with these operands. -/
def loaded (a b n : Nat) : State := { State.reset with regA := a, regB := b, regN := n }

/-- Idle or running `s` with one access next. -/
def with1 (s : State) (a : Access) : State := { s with agenda := [.access a] }

/-- A safe running GCD. -/
def runningGcd : State := { running 3 1071 462 0 with cmd := 0x00000003#32 }

/-- `R0`, `R1`, the error code and the cursor of the next state. -/
def outcome : Host.Outcome State Fault Refusal → Option (Nat × Nat × ErrCode × Nat)
  | .next t => some (t.regR0, t.regR1, t.status.err, t.cursor)
  | .fault _ => none
  | .refused _ => none

/-- The `STATUS` word and the port's answer of the next state. -/
def seen : Host.Outcome State Fault Refusal → Option (BusWord × PortAnswer)
  | .next t => some (statusWord t.status, t.port)
  | .fault _ => none
  | .refused _ => none

/-! ### The commands: vectors of 95_test_vectors.md Part 3 -/

/-- V-MUL-11. -/
theorem test_modmul_full_width :
    outcome (exec .modmul (running 1 (2 ^ 256 - 1) (2 ^ 256 - 1) (2 ^ 256 - 189))) = some (35344, 0, .none, 0) := by
  decide
/-- V-MUL-8. -/
theorem test_modmul_modulus_one : outcome (exec .modmul (loaded 5 3 1)) = some (0, 0, .domainViolation, 0) := by decide
/-- V-POW-1. -/
theorem test_modpow_trace : outcome (exec .modpow (running 2 4 13 497)) = some (445, 0, .none, 0) := by decide
/-- V-POW-4. -/
theorem test_modpow_zero_zero : outcome (exec .modpow (running 2 0 0 7)) = some (1, 0, .none, 0) := by decide
/-- V-GCD-7. -/
theorem test_gcd_trace : outcome (exec .gcd (running 3 1071 462 0)) = some (21, 0, .none, 0) := by decide
/-- V-GCD-5. -/
theorem test_gcd_zero_zero : outcome (exec .gcd (running 3 0 0 0)) = some (0, 0, .none, 0) := by decide
/-- V-EE-1. -/
theorem test_eeinv_trace : outcome (exec .eeinv (running 4 7 0 3120)) = some (1, 1783, .none, 0) := by decide
/-- V-EE-5, V-ST-14. -/
theorem test_eeinv_not_invertible : outcome (exec .eeinv (running 4 6 0 9)) = some (3, 8, .notInvertible, 0) := by decide
/-- V-EE-5. -/
theorem test_hasinv_no : outcome (exec .hasinv (running 5 6 0 9)) = some (0, 0, .none, 0) := by decide
/-- V-EE-4. -/
theorem test_hasinv_yes : outcome (exec .hasinv (running 5 10 0 23)) = some (1, 0, .none, 0) := by decide
/-- V-MR-5. -/
theorem test_mrwit_carmichael : outcome (exec .mrwit (running 6 2 0 561)) = some (1, 0, .none, 0) := by decide
/-- V-MR-10. -/
theorem test_mrwit_last_squaring : outcome (exec .mrwit (running 6 5 0 97)) = some (0, 0, .none, 0) := by decide
/-- V-MM-10: a liar, then the wrap past `n − 1`. -/
theorem test_mrmulti_wrap :
    outcome (exec (.mrmulti 10) (runningMulti 9 10 [6, 6])) = some (0, 0, .none, 2) := by decide
/-- V-MM-3: ten rounds, repeats resolved by stepping. -/
theorem test_mrmulti_ten_rounds :
    outcome (exec (.mrmulti 10) (runningMulti 97 10 [0, 0, 0, 94, 94, 94, 10, 200, 3, 50])) =
      some (1, 0, .none, 10) := by decide

/-! ### The host port and the sequencer: vectors of Part 2 -/

/-- V-REG-1. -/
theorem test_cap_reads_limbs : seen (step (with1 State.reset (.read 0x00C 4))) = some (0#32, .data 8#32) := by decide
/-- V-REG-7: limb 8 of `A` with `W = 256` reads 0 and ignores a write. -/
theorem test_high_limb_ignored : (match step (with1 State.reset (.write 0x120 4 7#32)) with
    | .next t => decide (t.regA = 0)
    | .fault _ => false
    | .refused _ => false) = true := by decide
/-- V-REG-10: a narrow `CMD` write is a bus error and issues nothing. -/
theorem test_narrow_command : seen (step (with1 State.reset (.write 0x000 2 2#32))) = some (0#32, .busError) := by decide
/-- V-REG-16: limb 0 is the least significant. -/
theorem test_limb_order : limbOf (2 ^ 256 - 189) 0 = 0xFFFFFF43#32 ∧ limbOf (2 ^ 255 + 12345) 7 = 0x80000000#32 := by
  decide
/-- V-ST-2: an illegal word is refused and stored. -/
theorem test_illegal_word : seen (step (with1 State.reset (.write 0x000 4 0x00000A02#32))) = some (0x12#32, .written) ∧
    (match step (with1 State.reset (.write 0x000 4 0x00000A02#32)) with
      | .next t => decide (t.cmd = 0x00000A02#32)
      | .fault _ => false
      | .refused _ => false) = true := by decide
/-- V-ST-7: the dropped word is not examined. -/
theorem test_overrun : seen (step (with1 runningGcd (.write 0x000 4 0xFFFFFFFF#32))) = some (0x5#32, .written) := by
  decide
/-- V-ST-16: a soft reset does not rewind the random source. -/
theorem test_reset_keeps_cursor :
    outcome (step (with1 { State.reset with cursor := 1 } (.write 0x008 4 2#32))) = some (0, 0, .none, 1) := by decide
/-- V-ENC-7 through the table: the fetched word is the first one run; `N = 0` after reset is a domain violation. -/
theorem test_fetch_word : seen (step (State.reset.withFetchWord 32 0x00000A07)) = some (0x22#32, .written) ∧
    seen (step (State.reset.withFetchWord 32 0x00000003)) = some (0x1#32, .written) := by decide

/-! ### Witnesses: concrete states and operands that meet the hypotheses of every statement, clause by clause -/

theorem witness_DecodeEncode : Instr.modmul.wellFormed = true ∧ (Instr.mrmulti 255).wellFormed = true := by decide
theorem witness_EncodeDecode : decode 0x00000006#32 = .ok .mrwit ∧ decode 0x0000FF07#32 = .ok (.mrmulti 255) :=
  ⟨rfl, rfl⟩
theorem witness_OpcodeMap : (0 : BusWord) ≠ 0x00000001#32 ∧ (0 : BusWord) ≠ 0x00000002#32 ∧
    (0 : BusWord) ≠ 0x00000003#32 ∧ (0 : BusWord) ≠ 0x00000004#32 ∧ (0 : BusWord) ≠ 0x00000005#32 ∧
    (0 : BusWord) ≠ 0x00000006#32 ∧ (0 : BusWord) &&& 0xFFFF00FF#32 ≠ 0x00000007#32 := by decide
theorem witness_ByteLanes : 0 < 4 ∧ 3 < 4 := by decide

/-- The reset state is safe. -/
theorem reset_inv : Inv State.reset :=
  ⟨by decide, ⟨by decide, by decide, by decide, by decide, by decide, by decide, by decide, by decide⟩,
    by decide, by decide, fun h => (by cases h), by decide, by decide⟩
theorem reset_workFits : WorkFits State.reset :=
  ⟨by decide, by decide, by decide, by decide, by decide, by decide, by decide, by decide, by decide, by decide, by decide,
    by decide, by decide, by decide⟩
/-- A running GCD is safe. -/
theorem runningGcd_inv : Inv runningGcd :=
  ⟨by decide, ⟨by decide, by decide, by decide, by decide, by decide, by decide, by decide, by decide⟩,
    by decide, by decide, fun _ => ⟨.gcd, rfl, rfl, by decide⟩, by decide, by decide⟩
/-- Reset held. -/
def held : State := { State.reset with rstLine := true }
theorem held_inv : Inv held :=
  ⟨by decide, ⟨by decide, by decide, by decide, by decide, by decide, by decide, by decide, by decide⟩,
    by decide, by decide, fun h => (by cases h), by decide, by decide⟩

/-- A running MRMULTI with this turn next. -/
def multiNext (e : Event) : State := { runningMulti 9 10 [6, 6] with agenda := [e] }

theorem witness_HardwareReset_assert : (multiNext (.rst true)).agenda.head? = some (.rst true) := rfl
theorem witness_HardwareReset_idle : { State.reset with cursor := 3, agenda := [.rst true] }.agenda.head? = some (.rst true) ∧
    { State.reset with cursor := 3, agenda := [.rst true] }.status.busy = false := ⟨rfl, rfl⟩
theorem witness_HardwareReset_access : (with1 held (.read 0x000 4)).rstLine = true ∧
    (with1 held (.read 0x000 4)).agenda.head? = some (.access (.read 0x000 4)) := ⟨rfl, rfl⟩
theorem witness_HardwareReset_engine : held.rstLine = true ∧ held.agenda = [] := ⟨rfl, rfl⟩
theorem witness_HardwareReset_release : { held with agenda := [.rst false] }.agenda.head? = some (.rst false) := rfl
theorem witness_HardwareReset_safe : Inv held ∧ held.rstLine = true := ⟨held_inv, rfl⟩
theorem witness_SoftReset : (multiNext (.access (writeAt Params.reference 0x008 0x00000003#32))).rstLine = false ∧
    (0x00000003#32 : BusWord).getLsbD 1 = true ∧
    (multiNext (.access (writeAt Params.reference 0x008 0x00000003#32))).agenda =
      .access (writeAt Params.reference 0x008 0x00000003#32) :: [] := ⟨rfl, by decide, rfl⟩
theorem witness_AbandonedCommand_hard :
    (multiNext (.rst true)).status.busy = true ∧ ResetTurn (multiNext (.rst true)) := ⟨rfl, .inl rfl⟩
theorem witness_AbandonedCommand_soft :
    (multiNext (.access (writeAt Params.reference 0x008 2#32))).status.busy = true ∧
      ResetTurn (multiNext (.access (writeAt Params.reference 0x008 2#32))) :=
  ⟨rfl, .inr ⟨2#32, by decide, rfl, rfl⟩⟩
theorem witness_AbandonedCommand_other :
    { runningGcd with agenda := [.rst true] }.status.busy = true ∧ ResetTurn { runningGcd with agenda := [.rst true] } ∧
      { runningGcd with agenda := [.rst true] }.op ≠ 7 := ⟨rfl, .inl rfl, by decide⟩
theorem witness_BusError_width : HostTurn (with1 State.reset (.write 0x000 2 2#32)) (.write 0x000 2 2#32) ∧
    windowOffset (with1 State.reset (.write 0x000 2 2#32)).params (accessAddr (.write 0x000 2 2#32)) = some 0 ∧
    accessSize (.write 0x000 2 2#32) ≠ 4 := ⟨⟨rfl, rfl⟩, rfl, by decide⟩
theorem witness_BusError_alignment : HostTurn (with1 State.reset (.read 0xFFF 4)) (.read 0xFFF 4) ∧
    windowOffset (with1 State.reset (.read 0xFFF 4)).params (accessAddr (.read 0xFFF 4)) = some 0xFFF ∧
    0xFFF % 4 ≠ 0 := ⟨⟨rfl, rfl⟩, rfl, by decide⟩
theorem witness_AddressMap : 64 ≤ 64 ∧ (0x010 % 4 = 0 ∧ 0x010 ≤ 0x010 ∧ 0x010 ≤ 0x0FC) ∧
    (0x0FC % 4 = 0 ∧ 0x010 ≤ 0x0FC ∧ 0x0FC ≤ 0x0FC) ∧ 63 < 64 ∧ (0x600 % 4 = 0 ∧ 0x600 ≤ 0x600 ∧ 0x600 ≤ 0xFFC) ∧
    (0xFFC % 4 = 0 ∧ 0x600 ≤ 0xFFC ∧ 0xFFC ≤ 0xFFC) := by decide
theorem witness_OperandLimbs_write :
    (with1 runningGcd (writeAt Params.reference (limbBase .n + 4 * 7) 1#32)).params.wellFormed = true ∧
    7 < (with1 runningGcd (writeAt Params.reference (limbBase .n + 4 * 7) 1#32)).params.limbs ∧
    HostTurn (with1 runningGcd (writeAt Params.reference (limbBase .n + 4 * 7) 1#32))
      (writeAt Params.reference (limbBase .n + 4 * 7) 1#32) := ⟨by decide, by decide, rfl, rfl⟩
theorem witness_OperandLimbs_read :
    (with1 State.reset (readAt Params.reference (limbBase .a + 4 * 0))).params.wellFormed = true ∧
    0 < (with1 State.reset (readAt Params.reference (limbBase .a + 4 * 0))).params.limbs ∧
    HostTurn (with1 State.reset (readAt Params.reference (limbBase .a + 4 * 0)))
      (readAt Params.reference (limbBase .a + 4 * 0)) := ⟨by decide, by decide, rfl, rfl⟩
theorem witness_ResultLimbs_write :
    (with1 State.reset (writeAt Params.reference (limbBase .r1 + 4 * 7) 1#32)).params.wellFormed = true ∧
    7 < (with1 State.reset (writeAt Params.reference (limbBase .r1 + 4 * 7) 1#32)).params.limbs ∧
    HostTurn (with1 State.reset (writeAt Params.reference (limbBase .r1 + 4 * 7) 1#32))
      (writeAt Params.reference (limbBase .r1 + 4 * 7) 1#32) := ⟨by decide, by decide, rfl, rfl⟩
theorem witness_ResultLimbs_idle :
    HostTurn (with1 State.reset (readAt Params.reference (limbBase .r0 + 4 * 0)))
      (readAt Params.reference (limbBase .r0 + 4 * 0)) ∧
    (with1 State.reset (readAt Params.reference (limbBase .r0 + 4 * 0))).status.busy = false := ⟨⟨rfl, rfl⟩, rfl⟩
theorem witness_ResultLimbs_busy :
    HostTurn (with1 runningGcd (readAt Params.reference (limbBase .r0 + 4 * 0)))
      (readAt Params.reference (limbBase .r0 + 4 * 0)) ∧
    (with1 runningGcd (readAt Params.reference (limbBase .r0 + 4 * 0))).status.busy = true := ⟨⟨rfl, rfl⟩, rfl⟩
theorem witness_ReservedLocations_low : (with1 State.reset (readAt Params.reference 0x0FC)).params.wellFormed = true ∧
    0x0FC % 4 = 0 ∧ (0x010 ≤ 0x0FC ∧ 0x0FC ≤ 0x0FC) ∧
    HostTurn (with1 State.reset (readAt Params.reference 0x0FC)) (readAt Params.reference 0x0FC) :=
  ⟨by decide, by decide, by decide, rfl, rfl⟩
theorem witness_ReservedLocations_high : (with1 State.reset (writeAt Params.reference 0xFFC 1#32)).params.wellFormed = true ∧
    0xFFC % 4 = 0 ∧ (0x600 ≤ 0xFFC ∧ 0xFFC ≤ 0xFFC) ∧
    HostTurn (with1 State.reset (writeAt Params.reference 0xFFC 1#32)) (writeAt Params.reference 0xFFC 1#32) :=
  ⟨by decide, by decide, by decide, rfl, rfl⟩
theorem witness_ReservedLocations_limb : (with1 runningGcd (readAt Params.reference 0x420)).params.wellFormed = true ∧
    0x420 % 4 = 0 ∧ (∃ (r : DataReg) (i : Nat), 8 ≤ i ∧ i < 64 ∧ 0x420 = limbBase r + 4 * i) ∧
    HostTurn (with1 runningGcd (readAt Params.reference 0x420)) (readAt Params.reference 0x420) :=
  ⟨by decide, by decide, ⟨.r0, 8, by decide⟩, rfl, rfl⟩
theorem witness_ReservedLocations_cap : State.reset.params.wellFormed = true ∧ 8 ≤ 31 := by decide
theorem witness_ReservedLocations_bits : 8 ≤ 8 ∧ 8 ≤ 31 ∧ 1 ≤ 1 ∧ 1 ≤ 31 := by decide
theorem witness_StatusRegister : HostTurn (with1 runningGcd (readAt Params.reference 0x004)) (readAt Params.reference 0x004) ∧
    HostTurn (with1 runningGcd (writeAt Params.reference 0x004 6#32)) (writeAt Params.reference 0x004 6#32) ∧
    Inv runningGcd := ⟨⟨rfl, rfl⟩, ⟨rfl, rfl⟩, runningGcd_inv⟩
theorem witness_ControlRegister :
    HostTurn (with1 runningGcd (readAt Params.reference 0x008)) (readAt Params.reference 0x008) ∧
    (HostTurn (with1 runningGcd (writeAt Params.reference 0x008 1#32)) (writeAt Params.reference 0x008 1#32) ∧
      (1#32 : BusWord).getLsbD 1 = false) ∧
    (HostTurn (with1 runningGcd (writeAt Params.reference 0x008 3#32)) (writeAt Params.reference 0x008 3#32) ∧
      (3#32 : BusWord).getLsbD 1 = true) ∧
    { State.reset with ctrl := { ie := true } }.ctrl.ie = true ∧ State.reset.ctrl.ie = false :=
  ⟨⟨rfl, rfl⟩, ⟨⟨rfl, rfl⟩, by decide⟩, ⟨⟨rfl, rfl⟩, by decide⟩, rfl, rfl⟩
theorem witness_CapRegister : (with1 State.reset (readAt Params.reference 0x00C)).params.wellFormed = true ∧
    HostTurn (with1 State.reset (readAt Params.reference 0x00C)) (readAt Params.reference 0x00C) ∧
    HostTurn (with1 State.reset (writeAt Params.reference 0x00C 1#32)) (writeAt Params.reference 0x00C 1#32) :=
  ⟨by decide, ⟨rfl, rfl⟩, rfl, rfl⟩

/-- Idle, with this word written to `CMD` next. -/
def issuing (w : BusWord) : State := with1 (loaded 2 10 1000) (writeAt Params.reference 0x000 w)
/-- Running, with this word written to `CMD` next. -/
def dropping (w : BusWord) : State := with1 runningGcd (writeAt Params.reference 0x000 w)

theorem witness_CommandRegister :
    (CommandTurn (issuing 0#32) 0#32 ∧ (issuing 0#32).status.busy = false) ∧
    (CommandTurn (dropping 5#32) 5#32 ∧ (dropping 5#32).status.busy = true) ∧
    HostTurn (with1 runningGcd (readAt Params.reference 0x000)) (readAt Params.reference 0x000) :=
  ⟨⟨⟨rfl, rfl⟩, rfl⟩, ⟨⟨rfl, rfl⟩, rfl⟩, rfl, rfl⟩
theorem witness_LimbValue : 2 ^ 256 - 1 < 2 ^ (32 * 8) ∧ 0 < 2 ^ (32 * 0) ∧ 1 ≤ 1 := by decide
theorem witness_LoadOperand :
    Params.reference.wellFormed = true ∧ runningGcd.rstLine = false ∧ 2 ^ 256 - 1 < runningGcd.bound ∧
    runningGcd.dataReg .n < runningGcd.bound ∧
    { runningGcd with agenda := scriptWr Params.reference .n (2 ^ 256 - 1) ++ [Event.engine] }.agenda =
      scriptWr Params.reference .n (2 ^ 256 - 1) ++ [Event.engine] := ⟨by decide, rfl, by decide, by decide, rfl⟩
theorem witness_CommandIssue_busy : CommandTurn (dropping 0#32) 0#32 ∧ (dropping 0#32).status.busy = true :=
  ⟨⟨rfl, rfl⟩, rfl⟩
theorem witness_CommandIssue_illegal :
    CommandTurn (issuing 0x0A02#32) 0x0A02#32 ∧ (issuing 0x0A02#32).status.busy = false ∧
      legalWord 0x0A02#32 = false := ⟨⟨rfl, rfl⟩, rfl, by decide⟩
theorem witness_CommandIssue_domain :
    CommandTurn (with1 (loaded 5 3 1) (writeAt Params.reference 0 0xFF07#32)) 0xFF07#32 ∧
      legalWord 0xFF07#32 = true ∧ (0xFF07#32 : BusWord).toNat % 16 ≠ 3 ∧ (loaded 5 3 1).regN < 2 :=
  ⟨⟨rfl, rfl⟩, by decide, by decide, by decide⟩
theorem witness_CommandIssue_starts :
    CommandTurn (with1 (loaded 5 3 2) (writeAt Params.reference 0 2#32)) 2#32 ∧ legalWord 2#32 = true ∧
      ¬(loaded 5 3 2).regN < 2 := ⟨⟨rfl, rfl⟩, by decide, by decide⟩
theorem witness_RoundsField : decode 0x00000007#32 = .ok (.mrmulti 0) ∧ decode 0x0000FF07#32 = .ok (.mrmulti 255) ∧
    CommandTurn (issuing 0xFF07#32) 0xFF07#32 ∧ (issuing 0xFF07#32).status.busy = false ∧
    ∃ t, step (issuing 0xFF07#32) = .next t := ⟨rfl, rfl, ⟨rfl, rfl⟩, rfl, ⟨_, rfl⟩⟩
theorem witness_StepRunsCommand_issue : CommandTurn (issuing 2#32) 2#32 ∧ (issuing 2#32).status.busy = false ∧
    decode 2#32 = .ok .modpow := ⟨⟨rfl, rfl⟩, rfl, rfl⟩
theorem witness_StepRunsCommand_completion : EngineTurn runningGcd ∧ runningGcd.status.busy = true ∧
    commandOfOp runningGcd.op runningGcd.rnds.toNat = some .gcd := ⟨⟨rfl, .inl rfl⟩, rfl, rfl⟩
theorem witness_FetchWordRuns : decodeTableWord 32 0xFF07 = some (.mrmulti 255) ∧
    decodeTableWord 8 0x03 = some .gcd := ⟨rfl, rfl⟩
theorem witness_IdleStays_engine : EngineTurn { State.reset with agenda := [.engine] } ∧
    { State.reset with agenda := [.engine] }.status.busy = false := ⟨⟨rfl, .inr rfl⟩, rfl⟩
theorem witness_IdleStays_empty : State.reset.agenda = [] ∧ State.reset.status.busy = false := ⟨rfl, rfl⟩

/-- A state with a finished command: `DONE`, `IE` and `OVR` set. -/
def finished : State :=
  { loaded 2 10 1000 with
    ctrl := { ie := true }, status := { busy := false, done := true, ovr := true, err := .notInvertible } }

theorem witness_BusyTransitions_rise : (issuing 2#32).status.busy = false ∧
    ∃ t, step (issuing 2#32) = .next t ∧ t.status.busy = true := ⟨rfl, _, rfl, rfl⟩
theorem witness_BusyTransitions_completion : runningGcd.status.busy = true ∧
    ∃ t, step runningGcd = .next t ∧ t.status.busy = false := ⟨rfl, _, rfl, rfl⟩
theorem witness_BusyTransitions_reset : (multiNext (.rst true)).status.busy = true ∧
    ∃ t, step (multiNext (.rst true)) = .next t ∧ t.status.busy = false := ⟨rfl, _, rfl, rfl⟩
theorem witness_DoneAndOutcome_rise :
    (runningGcd.status.done = false ∧ ∃ t, step runningGcd = .next t ∧ t.status.done = true) ∧
    ((issuing 0#32).status.done = false ∧ ∃ t, step (issuing 0#32) = .next t ∧ t.status.done = true) :=
  ⟨⟨rfl, _, rfl, rfl⟩, rfl, _, rfl, rfl⟩
theorem witness_DoneAndOutcome_fall :
    (finished.status.done = true ∧
      ∃ t, step (with1 finished (writeAt Params.reference 4 2#32)) = .next t ∧ t.status.done = false) ∧
    (∃ t, step (with1 finished (writeAt Params.reference 0 2#32)) = .next t ∧ t.status.done = false) ∧
    (∃ t, step { finished with agenda := [.rst true] } = .next t ∧ t.status.done = false) :=
  ⟨⟨rfl, _, rfl, rfl⟩, ⟨_, rfl, rfl⟩, _, rfl, rfl⟩
theorem witness_DoneAndOutcome_stable :
    (with1 finished (writeAt Params.reference 0x100 5#32)).status.done = true ∧
    (with1 finished (writeAt Params.reference 0x100 5#32)).status.busy = false ∧
    (∀ w, ¬CommandTurn (with1 finished (writeAt Params.reference 0x100 5#32)) w) ∧
    ¬ResetTurn (with1 finished (writeAt Params.reference 0x100 5#32)) ∧
    ∃ t, step (with1 finished (writeAt Params.reference 0x100 5#32)) = .next t := by
  refine ⟨rfl, rfl, fun w h => ?_, ?_, _, rfl⟩
  · have := h.2; simp [with1, writeAt, finished, loaded, State.reset, Params.reference] at this
  · rintro (h | ⟨v, _, h⟩)
    · simp [with1] at h
    · have := h.2; simp [with1, writeAt, finished, loaded, State.reset, Params.reference] at this
theorem witness_OverrunFlag :
    ((dropping 1#32).status.ovr = false ∧ ∃ t, step (dropping 1#32) = .next t) ∧
    ((with1 finished (writeAt Params.reference 4 4#32)).status.ovr = true ∧
      ∃ t, step (with1 finished (writeAt Params.reference 4 4#32)) = .next t) := ⟨⟨rfl, _, rfl⟩, rfl, _, rfl⟩
theorem witness_ErrorCode :
    (∃ t, step (issuing 0#32) = .next t ∧ t.status.err ≠ (issuing 0#32).status.err) ∧
      (issuing 0#32).status.err ≠ .exhausted := ⟨⟨_, rfl, by decide⟩, by decide⟩
theorem witness_InterruptLine_completion : EngineTurn { runningGcd with ctrl := { ie := true } } ∧
    { runningGcd with ctrl := { ie := true } }.status.busy = true ∧
    ∃ t, step { runningGcd with ctrl := { ie := true } } = .next t ∧ t.status.busy = false :=
  ⟨⟨rfl, .inl rfl⟩, rfl, _, rfl, rfl⟩
theorem witness_InterruptLine_issue : CommandTurn (issuing 0#32) 0#32 ∧ (issuing 0#32).status.busy = false ∧
    ∃ t, step (issuing 0#32) = .next t := ⟨⟨rfl, rfl⟩, rfl, _, rfl⟩
theorem witness_InterruptLine_drop : CommandTurn (dropping 1#32) 1#32 ∧ (dropping 1#32).status.busy = true ∧
    ∃ t, step (dropping 1#32) = .next t := ⟨⟨rfl, rfl⟩, rfl, _, rfl⟩
theorem witness_InterruptLine_lower :
    (ClearTurn (with1 finished (writeAt Params.reference 4 2#32)) 1 ∧
      ∃ t, step (with1 finished (writeAt Params.reference 4 2#32)) = .next t) ∧
    (ResetTurn { finished with agenda := [.rst true] } ∧ ∃ t, step { finished with agenda := [.rst true] } = .next t) :=
  ⟨⟨⟨2#32, by decide, rfl, rfl⟩, _, rfl⟩, .inl rfl, _, rfl⟩

/-- For MODMUL, MODPOW, EEINV, HASINV and MRWIT: idle below and at the domain's edge, running at its edge. -/
theorem witness_Modmul : ((loaded 5 3 1).status.busy = false ∧ (loaded 5 3 1).regN < 2) ∧
    ((loaded 5 3 2).status.busy = false ∧ 2 ≤ (loaded 5 3 2).regN) ∧
    ((running 1 5 3 2).status.busy = true ∧ 2 ≤ (running 1 5 3 2).opN) := by decide
theorem witness_Modpow : ((loaded 5 3 0).status.busy = false ∧ (loaded 5 3 0).regN < 2) ∧
    ((loaded 5 3 2).status.busy = false ∧ 2 ≤ (loaded 5 3 2).regN) ∧
    ((running 2 5 3 2).status.busy = true ∧ 2 ≤ (running 2 5 3 2).opN) := by decide
theorem witness_GcdCommand : (loaded 0 0 0).status.busy = false ∧ (running 3 0 0 0).status.busy = true := by decide
theorem witness_Eeinv : ((loaded 7 0 1).status.busy = false ∧ (loaded 7 0 1).regN < 2) ∧
    ((loaded 7 0 2).status.busy = false ∧ 2 ≤ (loaded 7 0 2).regN) ∧
    ((running 4 7 0 2).status.busy = true ∧ 2 ≤ (running 4 7 0 2).opN ∧
      Nat.gcd (running 4 7 0 2).opA (running 4 7 0 2).opN = 1 ∧ 1 < (running 4 7 0 2).opN ∧
      (running 4 7 0 2).opA * 1 % (running 4 7 0 2).opN = 1) := by decide
theorem witness_Hasinv : ((loaded 7 0 1).status.busy = false ∧ (loaded 7 0 1).regN < 2) ∧
    ((loaded 7 0 2).status.busy = false ∧ 2 ≤ (loaded 7 0 2).regN) ∧
    ((running 5 7 0 2).status.busy = true ∧ 2 ≤ (running 5 7 0 2).opN) := by decide
theorem witness_Mrwit : ((loaded 2 0 1).status.busy = false ∧ (loaded 2 0 1).regN < 2) ∧
    ((loaded 2 0 2).status.busy = false ∧ 2 ≤ (loaded 2 0 2).regN) ∧
    ((running 6 2 0 4).status.busy = true ∧ 2 ≤ (running 6 2 0 4).opN) := by decide
/-- V-MR-4 and V-MR-4b: base 2 proves 4 composite, base 3 does not. -/
theorem witness_Mrwit_both : ProvesComposite 4 2 ∧ ¬ProvesComposite 4 3 := by
  refine ⟨⟨0, 3, by decide, by decide, by decide, by decide, fun i h1 h2 => by omega⟩, ?_⟩
  rintro ⟨k, q, hq, hodd, _, hne, _⟩
  have hk : k = 0 := by
    rcases Nat.eq_zero_or_pos k with h | h
    · exact h
    · obtain ⟨j, rfl⟩ := Nat.exists_eq_add_of_lt h
      have h2 : 4 - 1 = 2 * (2 ^ j * q) := by rw [hq]; ring
      omega
  subst hk
  have : q = 3 := by omega
  subst this
  exact hne (by decide)
theorem witness_Mrmulti : 255 < 256 ∧ ((loaded 0 0 1).status.busy = false ∧ (loaded 0 0 1).regN < 2) ∧
    ((loaded 0 0 2).status.busy = false ∧ 2 ≤ (loaded 0 0 2).regN) ∧
    ((runningMulti 9 10 [6, 6]).status.busy = true ∧ 2 ≤ (runningMulti 9 10 [6, 6]).opN ∧
      SourceReady (runningMulti 9 10 [6, 6])) ∧
    ({ runningMulti 2 10 [] with sourceAnswers := false }.status.busy = true ∧
      2 ≤ { runningMulti 2 10 [] with sourceAnswers := false }.opN ∧
      SourceReady { runningMulti 2 10 [] with sourceAnswers := false }) :=
  ⟨by decide, by decide, by decide, ⟨by decide, by decide, .inl rfl⟩, by decide, by decide, .inr (by decide)⟩
theorem witness_MrmultiWaits : { runningMulti 3 1 [] with sourceAnswers := false }.status.busy = true ∧
    { runningMulti 3 1 [] with sourceAnswers := false }.sourceAnswers = false ∧
    1 ≤ min { runningMulti 3 1 [] with sourceAnswers := false }.rnds.toNat
      ({ runningMulti 3 1 [] with sourceAnswers := false }.opN - 2) := by decide
theorem witness_StopsOutsideDomain :
    ((running 1 5 3 1).status.busy = true ∧ needsModulus .modmul = true ∧ (running 1 5 3 1).opN < 2) ∧
    (EngineTurn (running 0 5 3 7) ∧ (running 0 5 3 7).status.busy = true ∧ (running 0 5 3 7).op.toNat = 0) ∧
    (EngineTurn (running 8 5 3 7) ∧ (running 8 5 3 7).status.busy = true ∧ 8 ≤ (running 8 5 3 7).op.toNat) :=
  ⟨by decide, ⟨⟨rfl, .inl rfl⟩, rfl, rfl⟩, ⟨rfl, .inl rfl⟩, rfl, by decide⟩
theorem witness_arithmetic : 2 ≤ 2 ∧ 0 < 1 ∧ 9 - 1 = 2 ^ 3 * 1 ∧ 1 % 2 = 1 ∧ 2 < 2 ^ 2 ∧ 4 % 2 = 0 := by decide
theorem witness_WitnessCorners : 2 ≤ 5 ∧ 10 % 5 = 0 ∧ 6 % 5 = 1 ∧ 9 % 5 = 5 - 1 ∧ 2 = 2 ∧ 2 < 4 ∧ 4 % 2 = 0 := by decide
theorem witness_PrimeHasNoWitness : Nat.Prime 3 ∧ 3 ≠ 2 ∧ ¬3 ∣ 2 := ⟨by norm_num, by decide, by decide⟩
theorem witness_PrimeNeverDenied :
    (runningMulti 3 10 [12345]).status.busy = true ∧ SourceReady (runningMulti 3 10 [12345]) ∧
      (runningMulti 3 10 [12345]).opN.Prime ∧ ∃ t, exec (.mrmulti 10) (runningMulti 3 10 [12345]) = .next t :=
  ⟨rfl, .inl rfl, by show Nat.Prime 3; norm_num, _, rfl⟩
theorem witness_DrawnBase : (3 ≤ 3 ∧ ([] : List Nat).length < 3 - 2) ∧ (3 ≤ 5 ∧ [3, 4].length < 5 - 2) := by decide
theorem witness_MultiCorners : 2 ≤ 2 := by decide
theorem witness_StepKeepsSafe : Inv runningGcd ∧ ∃ t, step runningGcd = .next t := ⟨runningGcd_inv, _, rfl⟩
theorem witness_SafeGoesOn : Inv State.reset ∧ Inv runningGcd ∧ Inv held := ⟨reset_inv, runningGcd_inv, held_inv⟩
theorem witness_WorkingRegistersFit : Inv State.reset ∧ WorkFits State.reset ∧ ∃ t, step State.reset = .next t :=
  ⟨reset_inv, reset_workFits, _, rfl⟩
theorem witness_ParametersFixed : ∃ t, step runningGcd = .next t := ⟨_, rfl⟩
theorem witness_CommandsKeepOperands : (∃ t, exec .gcd runningGcd = .next t) ∧
    (∃ t, exec (.mrmulti 10) (runningMulti 9 10 [6, 6]) = .next t) ∧ (∀ rounds, Instr.gcd ≠ .mrmulti rounds) :=
  ⟨⟨_, rfl⟩, ⟨_, rfl⟩, fun _ h => by cases h⟩
theorem witness_OutcomeDependsOnLatches :
    SameCommand runningGcd { runningGcd with regA := 5, regN := 7, port := .busError } ∧
    runningGcd.status.busy = true ∧
    (∃ t, exec .gcd runningGcd = .next t ∧ t.status.busy = false) ∧
    ∃ t, exec .gcd { runningGcd with regA := 5, regN := 7, port := .busError } = .next t ∧ t.status.busy = false :=
  ⟨⟨rfl, rfl, rfl, rfl, rfl, fun _ => rfl⟩, rfl, ⟨_, rfl, rfl⟩, _, rfl, rfl⟩
theorem witness_WorkingRegistersHidden :
    AgreeButWork runningGcd { runningGcd with work := { Working.reset with pow := { acc := 1, base := 2, ex := 3 } } } :=
  ⟨_, rfl⟩

end Sys2Proof.Tests
end

section
/-! The parameters of an instance are fixed for a run (R6, R35): each operation a turn can be keeps them, so each step
does. -/
namespace Sys2Proof.Machine

/-- Refused or started, an issue changes registers and flags only (R43). -/
@[simp] theorem issue_params (i : Instr) (s : State) : (issue i s).params = s.params := by
  rcases issue_cases i s with ⟨_, _, h⟩ | ⟨_, h⟩ <;> simp [h]

/-- A waiting, issued or completed command keeps the parameters (R42, R43, R45). -/
theorem exec_params {i : Instr} {s t : State} (h : exec i s = .next t) : t.params = s.params := by
  rcases exec_cases h with ⟨_, _, rfl⟩ | ⟨_, rfl⟩ | ⟨_, _, rfl⟩
  · exact advance_params s
  · exact issue_params i s
  · exact complete_params _ s

@[simp] theorem hostRead_params (l : Location) (s : State) : (hostRead l s).params = s.params := by
  rcases hostRead_cases l s with ⟨_, _, h⟩ | ⟨_, h⟩ <;> simp [h]

@[simp] theorem writeCtrl_params (v : BusWord) (s : State) : (writeCtrl v s).params = s.params := by
  rcases writeCtrl_cases v s with ⟨_, h⟩ | ⟨_, h⟩ <;> simp [h]

@[simp] theorem writeLimb_params (r : DataReg) (i : Nat) (v : BusWord) (s : State) :
    (writeLimb r i v s).params = s.params := by
  cases r <;> rfl

/-- No location the host can write holds the parameters; `CAP` ignores writes (R35, R53). -/
@[simp] theorem hostWrite_params (l : Location) (v : BusWord) (s : State) : (hostWrite l v s).params = s.params := by
  cases l with
  | cmd | cap | reserved => rfl
  | status => exact writeStatus_params v s
  | ctrl => exact writeCtrl_params v s
  | limb r i => exact writeLimb_params r i v s

@[simp] theorem rstTurn_params (asserted : Bool) (s : State) : (rstTurn asserted s).params = s.params := by
  cases asserted <;> rfl

/-- No step changes the parameters (R6). -/
theorem step_params {s t : State} (h : step s = .next t) : t.params = s.params := by
  rcases step_effect h with ⟨_, _, rfl⟩ | ⟨i, _, _, _, _, hexec⟩ | ⟨a, p, _, rfl⟩ | ⟨off, _, _, _, _, rfl⟩ |
    ⟨v, _, _, _, rfl⟩ | ⟨v, _, _, _, _, rfl⟩ | ⟨v, i, _, _, _, _, rfl⟩ | ⟨off, v, _, _, _, _, _, rfl⟩ |
    ⟨b, _, rfl⟩ | ⟨b, _, rfl⟩
  case inr.inl => exact exec_params hexec
  all_goals simp

/-- `CAP` reads the parameters and nothing else (R35). -/
theorem cap_eq_of_params_eq {s t : State} (h : t.params = s.params) : t.cap = s.cap := by
  rw [State.cap, State.cap, h]

/-- Settles O56: every effect a step can have keeps the parameters, and `CAP` is read from them. -/
theorem parametersFixed : Obligations.ParametersFixed := fun _ _ h =>
  ⟨step_params h, cap_eq_of_params_eq (step_params h)⟩

end Sys2Proof.Machine
end

section
/-! SUPPORT. The command word: its fields as parts of its number (R70), what the decoder accepts (R74, R75), and that
the encoder writes back the word that was decoded. -/
namespace Sys2Proof

theorem fieldOp_toNat (w : BusWord) : (fieldOp w).toNat = w.toNat % 16 := by
  simp [fieldOp]

theorem fieldZ0_toNat (w : BusWord) : (fieldZ0 w).toNat = w.toNat / 16 % 16 := by
  simp [fieldZ0, Nat.shiftRight_eq_div_pow]

theorem fieldRounds_toNat (w : BusWord) : (fieldRounds w).toNat = w.toNat / 256 % 256 := by
  simp [fieldRounds, Nat.shiftRight_eq_div_pow]

theorem fieldZ1_toNat (w : BusWord) : (fieldZ1 w).toNat = w.toNat / 65536 := by
  have := w.isLt
  simp only [fieldZ1, BitVec.extractLsb'_toNat, Nat.shiftRight_eq_div_pow]
  omega

theorem fieldZ1_eq_zero (w : BusWord) : fieldZ1 w = 0 ↔ w.toNat / 65536 = 0 := by
  rw [← BitVec.toNat_inj, fieldZ1_toNat]; rfl

theorem fieldZ0_eq_zero (w : BusWord) : fieldZ0 w = 0 ↔ w.toNat / 16 % 16 = 0 := by
  rw [← BitVec.toNat_inj, fieldZ0_toNat]; rfl

theorem fieldRounds_eq_zero (w : BusWord) : fieldRounds w = 0 ↔ w.toNat / 256 % 256 = 0 := by
  rw [← BitVec.toNat_inj, fieldRounds_toNat]; rfl

theorem fieldOp_eq_seven (w : BusWord) : fieldOp w = 7 ↔ w.toNat % 16 = 7 := by
  rw [← BitVec.toNat_inj, fieldOp_toNat]; rfl

/-- An operation code names the command whose row it is in, MRMULTI with the given rounds (R75). -/
theorem commandOfOp_eq_some {op : BitVec 4} {rounds : Nat} {i : Instr} :
    commandOfOp op rounds = some i ↔ op.toNat = opcodeOf i ∧ ∀ r, i = .mrmulti r → r = rounds := by
  unfold commandOfOp
  constructor
  · intro h
    split at h <;> cases h <;> simp_all [opcodeOf]
  · rintro ⟨hop, hr⟩
    cases i with
    | mrmulti r => simp [hop, opcodeOf, hr r rfl]
    | _ => simp [hop, opcodeOf]

/-- An operation code names a command exactly when it is 1 to 7 (R75). -/
theorem commandOfOp_isSome (op : BitVec 4) (rounds : Nat) :
    (commandOfOp op rounds).isSome = true ↔ 1 ≤ op.toNat ∧ op.toNat ≤ 7 := by
  unfold commandOfOp
  split <;> simp_all
  omega

/-- What the decoder accepts: no reserved bit set, no rounds but for MRMULTI, and the command that `OP` names (R74). -/
theorem decode_eq_ok {w : BusWord} {i : Instr} :
    decode w = .ok i ↔ fieldZ1 w = 0 ∧ fieldZ0 w = 0 ∧ (fieldOp w ≠ 7 → fieldRounds w = 0) ∧
      commandOfOp (fieldOp w) (fieldRounds w).toNat = some i := by
  have hsome : (commandOfOp (fieldOp w) 0).isSome = (commandOfOp (fieldOp w) (fieldRounds w).toNat).isSome := by
    rw [Bool.eq_iff_iff, commandOfOp_isSome, commandOfOp_isSome]
  unfold decode
  rw [hsome]
  by_cases h1 : fieldZ1 w = 0
  swap
  · rw [if_pos h1]; exact ⟨nofun, fun h => absurd h.1 h1⟩
  rw [if_neg (not_not.2 h1)]
  by_cases h0 : fieldZ0 w = 0
  swap
  · rw [if_pos h0]; exact ⟨nofun, fun h => absurd h.2.1 h0⟩
  rw [if_neg (not_not.2 h0)]
  cases commandOfOp (fieldOp w) (fieldRounds w).toNat with
  | none => simp
  | some j =>
    by_cases hr : fieldOp w ≠ 7 ∧ fieldRounds w ≠ 0
    · rw [if_pos ⟨hr.1, hr.2, rfl⟩]
      exact ⟨nofun, fun h => absurd (h.2.2.1 hr.1) hr.2⟩
    · rw [if_neg fun h => hr ⟨h.1, h.2.1⟩]
      have himp : fieldOp w ≠ 7 → fieldRounds w = 0 := fun h => by_contra fun hn => hr ⟨h, hn⟩
      exact ⟨fun h => ⟨h1, h0, himp, congrArg some (Except.ok.inj h)⟩,
        fun h => congrArg Except.ok (Option.some.inj h.2.2.2)⟩

/-- The operation code is the low digit of the word of a command, the rounds are its second byte, and nothing else is
set (R70, R75). -/
theorem toNat_of_decode {w : BusWord} {i : Instr} (h : decode w = .ok i) :
    w.toNat % 16 = opcodeOf i ∧ w.toNat = w.toNat / 256 % 256 * 256 + opcodeOf i ∧
      (opcodeOf i ≠ 7 → w.toNat / 256 % 256 = 0) ∧ ∀ r, i = .mrmulti r → r = w.toNat / 256 % 256 := by
  obtain ⟨h1, h0, hr, hc⟩ := decode_eq_ok.1 h
  obtain ⟨hop, hm⟩ := commandOfOp_eq_some.1 hc
  rw [fieldZ1_eq_zero] at h1
  rw [fieldZ0_eq_zero] at h0
  rw [Ne, fieldOp_eq_seven, fieldRounds_eq_zero] at hr
  rw [fieldOp_toNat] at hop
  rw [fieldRounds_toNat] at hm
  exact ⟨hop, by omega, fun h7 => hr (by omega), hm⟩

/-- The encoder writes back the word that was decoded (R70, R74). -/
theorem encode_of_decode {w : BusWord} {i : Instr} (h : decode w = .ok i) : encode i = w := by
  obtain ⟨-, hw, hr, hm⟩ := toNat_of_decode h
  apply BitVec.eq_of_toNat_eq
  cases i with
  | mrmulti r =>
    have hlt := w.isLt
    rw [hm r rfl, hw]
    simp only [encode, opcodeOf, BitVec.toNat_ofNat]
    omega
  | _ => rw [hw, hr (by decide)]; rfl

/-- `Legal(w)` of R74 is what the decoder accepts. -/
theorem legalWord_iff (w : BusWord) : legalWord w = true ↔ ∃ i, decode w = .ok i := by
  have hdec : (∃ i, decode w = .ok i) ↔ fieldZ1 w = 0 ∧ fieldZ0 w = 0 ∧ (fieldOp w ≠ 7 → fieldRounds w = 0) ∧
      (commandOfOp (fieldOp w) (fieldRounds w).toNat).isSome = true := by
    simp only [decode_eq_ok, Option.isSome_iff_exists, exists_and_left]
  rw [hdec, commandOfOp_isSome, fieldZ1_eq_zero, fieldZ0_eq_zero, Ne, fieldOp_eq_seven, fieldRounds_eq_zero, fieldOp_toNat]
  simp only [legalWord, Bool.and_eq_true, Bool.or_eq_true, decide_eq_true_eq]
  tauto

/-- A word is illegal exactly when the decoder refuses it (R74, R76). -/
theorem legalWord_eq_false {w : BusWord} : legalWord w = false ↔ ∃ e, decode w = .error e := by
  rw [← Bool.not_eq_true, legalWord_iff]
  cases decode w <;> simp

end Sys2Proof
end

section
/-! SUPPORT. What the step is on each kind of served turn: a read, a write, a `CMD` write, the engine's turn, a reset and
the write of a clear bit (R34, R42, R43, R52, R189, R210). -/
namespace Sys2Proof.Machine
open Sys2Proof.Safety

/-- A step has one successor. -/
theorem step_unique {s t u : State} (ht : step s = .next t) (hu : step s = .next u) : t = u :=
  Host.Outcome.next.inj (ht.symm.trans hu)

/-- A served read answers its location (R52, R58). -/
theorem step_read {s : State} {off : Nat} (h : HostTurn s (readAt s.params off)) (hw : off < 4096) (ha : off % 4 = 0) :
    step s = .next (hostRead (locate s.params.limbs off) (advance s)) :=
  step_settled ((nextTurn_access h.2).trans (accessTurn_read h.1 hw ha))

/-- A served write elsewhere than to `CMD` writes its location (R52). -/
theorem step_write {s : State} {off : Nat} {v : BusWord} (h : HostTurn s (writeAt s.params off v)) (hw : off < 4096)
    (ha : off % 4 = 0) (h0 : off ≠ 0) :
    step s = .next (hostWrite (locate s.params.limbs off) v (answer .written (advance s))) :=
  step_settled ((nextTurn_access h.2).trans ((accessTurn_write h.1 hw ha).trans (if_neg h0)))

/-- A served write to `STATUS` clears flags (R29). -/
theorem step_writeStatus {s : State} {v : BusWord} (h : HostTurn s (writeAt s.params 0x004 v)) :
    step s = .next (writeStatus v (answer .written (advance s))) :=
  step_write h (by decide) (by decide) (by decide)

/-- A served write to `CTRL` resets or sets `IE` (R34). -/
theorem step_writeCtrl {s : State} {v : BusWord} (h : HostTurn s (writeAt s.params 0x008 v)) :
    step s = .next (writeCtrl v (answer .written (advance s))) :=
  step_write h (by decide) (by decide) (by decide)

/-- A served `CMD` write is the port's `CMD` write. -/
theorem nextTurn_command {s : State} {w : BusWord} (h : CommandTurn s w) : nextTurn s = cmdWrite w s :=
  (nextTurn_access h.2).trans ((accessTurn_write h.1 (by decide) (by decide)).trans (if_pos rfl))

/-- A `CMD` write while busy is dropped (R188). -/
theorem step_command_busy {s : State} {w : BusWord} (h : CommandTurn s w) (hb : s.status.busy = true) :
    step s = .next (dropWord s) :=
  step_settled ((nextTurn_command h).trans (if_pos hb))

/-- A `CMD` write of an illegal word while idle is refused (R76, R181). -/
theorem step_command_illegal {s : State} {w : BusWord} {e : IllegalWord} (h : CommandTurn s w)
    (hb : s.status.busy = false) (hd : decode w = .error e) : step s = .next (refuseWord w s) :=
  step_settled ((nextTurn_command h).trans (by simp [cmdWrite, hb, hd]))

/-- A `CMD` write of a legal word while idle runs its command (R43). -/
theorem step_command_legal {s : State} {w : BusWord} {i : Instr} (h : CommandTurn s w) (hb : s.status.busy = false)
    (hd : decode w = .ok i) : step s = exec i s :=
  step_run ((nextTurn_command h).trans (by simp [cmdWrite, hb, hd]))

/-- The engine's turn while idle passes (R42). -/
theorem step_engine_idle {s : State} (h : EngineTurn s) (hb : s.status.busy = false) : step s = .next (advance s) :=
  step_settled ((nextTurn_engine h.2).trans (by simp [engineTurn, h.1, hb]))

/-- The engine's turn while busy runs the latched command (R42). -/
theorem step_engine_busy {s : State} {i : Instr} (h : EngineTurn s) (hb : s.status.busy = true)
    (hi : commandOfOp s.op s.rnds.toNat = some i) : step s = exec i s :=
  step_run ((nextTurn_engine h.2).trans (by simp [engineTurn, h.1, hb, hi]))

/-- The engine's turn while busy with a latch that names no command stops (log 16). -/
theorem step_engine_none {s : State} (h : EngineTurn s) (hb : s.status.busy = true)
    (hi : commandOfOp s.op s.rnds.toNat = none) : step s = .fault .noCommand :=
  step_stuck ((nextTurn_engine h.2).trans (by simp [engineTurn, h.1, hb, hi]))

/-- The turn that asserts or releases `rst` (R210). -/
theorem step_rst {s : State} {asserted : Bool} (h : s.agenda.head? = some (.rst asserted)) :
    step s = .next (rstTurn asserted s) := by
  apply step_settled
  unfold nextTurn
  cases ha : s.agenda with
  | nil => simp [ha] at h
  | cons e rest => simp only [ha, List.head?_cons, Option.some.injEq] at h; subst h; rfl

/-- A reset turn resets the hardware, and beside it moves only the `rst` line and the port's answer (R210, R211). -/
theorem step_reset {s : State} (h : ResetTurn s) :
    ∃ r p, step s = .next { resetHardware (advance s) with rstLine := r, port := p } := by
  rcases h with h | ⟨v, hv, h⟩
  · exact ⟨_, _, step_rst h⟩
  · exact ⟨_, _, (step_writeCtrl h).trans (congrArg _ (if_pos hv))⟩

end Sys2Proof.Machine
end

section
/-! SUPPORT. `step_effect` sorted by what a step changes: each case names the turn it takes and the state it leads to, and
the turns that touch nothing but the surroundings are one case. The invariants below are read off this list. -/
namespace Sys2Proof.Machine
open Sys2Proof.Safety

/-- `Effect s t`: a step from `s` may lead to `t`, by one of these turns. -/
inductive Effect (s : State) : State → Prop
  /-- the engine completes the latched command (R42) -/
  | completed (i : Instr) (he : EngineTurn s) (hb : s.status.busy = true)
      (hi : commandOfOp s.op s.rnds.toNat = some i) (hd : needsModulus i = true → 2 ≤ s.opN) :
      Effect s (complete (unitOf i s) s)
  /-- a `CMD` write while busy is dropped (R188) -/
  | dropped (w : BusWord) (hc : CommandTurn s w) (hb : s.status.busy = true) : Effect s (dropWord s)
  /-- a `CMD` write of an illegal word is refused (R181) -/
  | refused (w : BusWord) (hc : CommandTurn s w) (hb : s.status.busy = false) (hw : ∃ e, decode w = .error e) :
      Effect s (refuseWord w s)
  /-- a `CMD` write of a legal word is refused for its modulus (R182) -/
  | belowTwo (w : BusWord) (i : Instr) (hc : CommandTurn s w) (hb : s.status.busy = false) (hw : decode w = .ok i)
      (hm : needsModulus i = true) (hn : s.regN < 2) :
      Effect s (raiseAtIssue .domainViolation (latch w (storeCommand w (answer .written (advance s)))))
  /-- a `CMD` write of a legal word starts its command (R43) -/
  | started (w : BusWord) (i : Instr) (hc : CommandTurn s w) (hb : s.status.busy = false) (hw : decode w = .ok i)
      (hm : needsModulus i = true → 2 ≤ s.regN) :
      Effect s { latch w (storeCommand w (answer .written (advance s))) with status := startRun (openIssue s.status) }
  /-- a write to `STATUS` (R29) -/
  | cleared (v : BusWord) (hh : HostTurn s (writeAt s.params 0x004 v)) :
      Effect s (writeStatus v (answer .written (advance s)))
  /-- a reset, hard or soft (R210, R211) -/
  | reset (hr : ResetTurn s) (r : Bool) (p : PortAnswer) :
      Effect s { resetHardware (advance s) with rstLine := r, port := p }
  /-- a write to a limb below `L` (R54, R55) -/
  | limb (r : DataReg) (i : Nat) (v : BusWord) (hi : i < s.params.limbs) :
      Effect s (writeLimb r i v (answer .written (advance s)))
  /-- no register, flag, latch or command changes: only `IE`, the surroundings and the port may -/
  | quiet (c : Ctrl) (r answers : Bool) (d : Nat) (ag : List Event) (p : PortAnswer)
      (hr : r = true → s.rstLine = true) :
      Effect s { s with ctrl := c, rstLine := r, sourceAnswers := answers, draws := d, agenda := ag, port := p }

/-- Taking a turn and answering it is quiet. -/
theorem effect_answer (s : State) (p : PortAnswer) : Effect s (answer p (advance s)) := .quiet _ _ _ _ _ _ id

theorem effect_advance (s : State) : Effect s (advance s) := .quiet _ _ _ _ _ _ id

theorem effect_hostRead (s : State) (l : Location) : Effect s (hostRead l (advance s)) := by
  rcases hostRead_cases l (advance s) with ⟨_, _, h⟩ | ⟨_, h⟩
  · rw [h]; exact .quiet _ _ _ _ _ _ id
  · rw [h]; exact .quiet _ _ _ _ _ _ id

/-- The issue of a decoded word refuses it for its modulus or starts it (R43). -/
theorem effect_issue {s : State} {w : BusWord} {i : Instr} (hc : CommandTurn s w) (hb : s.status.busy = false)
    (hw : decode w = .ok i) : Effect s (issue i s) := by
  rcases issue_cases i s with ⟨hm, hn, h⟩ | ⟨hm, h⟩
  · rw [h, encode_of_decode hw]; exact .belowTwo w i hc hb hw hm hn
  · rw [h, encode_of_decode hw]; exact .started w i hc hb hw hm

theorem effect_writeCtrl {s : State} {v : BusWord} (h : HostTurn s (writeAt s.params 0x008 v)) :
    Effect s (writeCtrl v (answer .written (advance s))) := by
  rcases writeCtrl_cases v (answer .written (advance s)) with ⟨hv, hw⟩ | ⟨_, hw⟩
  · rw [hw]; exact .reset (.inr ⟨v, hv, h⟩) _ _
  · rw [hw]; exact .quiet _ _ _ _ _ _ id

/-- A write elsewhere than to `CMD`, location by location (R29, R34, R35, R54 to R56). -/
theorem effect_hostWrite {s : State} {off : Nat} {v : BusWord} (h : HostTurn s (writeAt s.params off v)) (h0 : off ≠ 0) :
    Effect s (hostWrite (locate s.params.limbs off) v (answer .written (advance s))) := by
  rcases locate_cases s.params.limbs off with ⟨ho, _⟩ | ⟨rfl, _⟩ | ⟨rfl, _⟩ | ⟨rfl, _⟩ | ⟨_, _, _, _, ⟨r, i, hi, hl⟩ | hl⟩
  · exact absurd ho h0
  · exact .cleared v h
  · exact effect_writeCtrl h
  · exact effect_answer s .written
  · rw [hl]; exact .limb r i v hi
  · rw [hl]; exact effect_answer s .written

theorem effect_rstTurn {s : State} {asserted : Bool} (h : s.agenda.head? = some (.rst asserted)) :
    Effect s (rstTurn asserted s) := by
  cases asserted with
  | true => exact .reset (.inl h) true s.port
  | false => exact .quiet _ _ _ _ _ _ nofun

/-- Every step that goes on has one of the effects. -/
theorem effect_of_step {s t : State} (h : step s = .next t) : Effect s t := by
  rcases step_effect h with ⟨_, _, rfl⟩ | ⟨i, he, hr, hb, hi, hexec⟩ | ⟨a, p, _, rfl⟩ | ⟨off, _, _, _, _, rfl⟩ |
    ⟨w, hr, hc, hb, rfl⟩ | ⟨w, hr, hc, hb, hw, rfl⟩ | ⟨w, i, hr, hc, hb, hw, rfl⟩ | ⟨off, v, hr, _, _, h0, hh, rfl⟩ |
    ⟨b, hh, rfl⟩ | ⟨b, _, rfl⟩
  · exact effect_advance s
  · rcases exec_cases hexec with ⟨_, _, rfl⟩ | ⟨hb', _⟩ | ⟨_, hd, rfl⟩
    · exact effect_advance s
    · rw [hb] at hb'; cases hb'
    · exact .completed i ⟨hr, he⟩ hb hi hd
  · exact effect_answer s p
  · exact effect_hostRead s _
  · exact .dropped w ⟨hr, hc⟩ hb
  · exact .refused w ⟨hr, hc⟩ hb hw
  · exact effect_issue ⟨hr, hc⟩ hb hw
  · exact effect_hostWrite ⟨hr, hh⟩ h0
  · exact effect_rstTurn hh
  · exact .quiet _ _ b _ _ _ id

end Sys2Proof.Machine
end

section
/-! The sequencer's flags `BUSY`, `DONE`, `OVR`, `ERR` and the line `irq`: which turn moves each of them (R30 to R33, R46).
What a given turn does is the step's equation for it; which turn it was is read off `Effect`. -/
namespace Sys2Proof.Machine
open Sys2Proof.Safety

@[simp] theorem writeLimb_status (r : DataReg) (i : Nat) (v : BusWord) (s : State) :
    (writeLimb r i v s).status = s.status := by
  cases r <;> rfl

@[simp] theorem writeLimb_regR0 (r : DataReg) (i : Nat) (v : BusWord) (s : State) :
    (writeLimb r i v s).regR0 = s.regR0 := by
  cases r <;> rfl

@[simp] theorem writeLimb_regR1 (r : DataReg) (i : Nat) (v : BusWord) (s : State) :
    (writeLimb r i v s).regR1 = s.regR1 := by
  cases r <;> rfl

@[simp] theorem writeLimb_work (r : DataReg) (i : Nat) (v : BusWord) (s : State) :
    (writeLimb r i v s).work = s.work := by
  cases r <;> rfl

/-- No unit delivers code 4 (R187). -/
theorem unitOf_err_ne_exhausted (i : Instr) (s : State) : (unitOf i s).err ≠ .exhausted := by
  cases i with
  | eeinv =>
    show (if (extRun s.opA s.opN s.work.euclid.q).r0 = 1 then ErrCode.none else .notInvertible) ≠ .exhausted
    split <;> decide
  | _ => exact nofun

/-- A `CMD` write turn is dropped, refused as illegal, or issued. -/
theorem command_cases {s t : State} {w : BusWord} (hc : CommandTurn s w) (h : step s = .next t) :
    (s.status.busy = true ∧ t = dropWord s) ∨ (s.status.busy = false ∧ t = refuseWord w s) ∨
      (∃ i, s.status.busy = false ∧ t = issue i s) := by
  cases hb : s.status.busy with
  | true => exact .inl ⟨rfl, step_unique h (step_command_busy hc hb)⟩
  | false =>
    cases hd : decode w with
    | error e => exact .inr (.inl ⟨rfl, step_unique h (step_command_illegal hc hb hd)⟩)
    | ok i => exact .inr (.inr ⟨i, rfl, step_unique h ((step_command_legal hc hb hd).trans (exec_idle hb))⟩)

/-- The engine's turn while busy waits for the random source or completes the latched command (R42, R45). -/
theorem engine_cases {s t : State} (he : EngineTurn s) (hb : s.status.busy = true) (h : step s = .next t) :
    t = advance s ∨ ∃ i, t = complete (unitOf i s) s := by
  cases hi : commandOfOp s.op s.rnds.toNat with
  | none => rw [step_engine_none he hb hi] at h; cases h
  | some i =>
    rw [step_engine_busy he hb hi] at h
    rcases exec_cases h with ⟨_, _, ht⟩ | ⟨hi', _⟩ | ⟨_, _, ht⟩
    · exact .inl ht
    · rw [hb] at hi'; cases hi'
    · exact .inr ⟨i, ht⟩

/-- After a reset turn every flag is 0 and `IE` is 0 (R47). -/
theorem reset_flags {s t : State} (hr : ResetTurn s) (h : step s = .next t) :
    t.status = { busy := false, done := false, ovr := false, err := .none } ∧ t.ctrl.ie = false := by
  obtain ⟨r, p, hu⟩ := step_reset hr
  rw [step_unique h hu]
  exact ⟨rfl, rfl⟩

/-- After a turn that writes 1 to bit `k` of `STATUS` the flags are those that the write of some word with that bit leaves
(R29). -/
theorem clear_flags {s t : State} {k : Nat} (hc : ClearTurn s k) (h : step s = .next t) :
    ∃ v : BusWord, v.getLsbD k = true ∧ t.status = clearFlags v s.status := by
  obtain ⟨v, hv, hh⟩ := hc
  rw [step_unique h (step_writeStatus hh)]
  exact ⟨v, hv, rfl⟩

/-- Settles O28: of the effects only a start raises `BUSY`, and only a completion or a reset lowers it. -/
theorem busyTransitions : Obligations.BusyTransitions := by
  intro s t h
  refine ⟨fun h0 h1 => ?_, fun h1 h0 => ?_⟩
  · cases effect_of_step h with
    | started w i hc _ hw hm => exact ⟨w, i, hc, hw, hm⟩
    | completed | reset => cases h1
    | dropped | refused | belowTwo | cleared | limb | quiet => simp [h0] at h1
  · cases effect_of_step h with
    | completed i he => exact .inl ⟨he, rfl⟩
    | reset hr => exact .inr hr
    | started => cases h0
    | dropped | refused | belowTwo | cleared | limb | quiet => simp [h1] at h0

/-- Settles O29: `DONE` and the outcome in each effect. -/
theorem doneAndOutcome : Obligations.DoneAndOutcome := by
  intro s t h
  refine ⟨fun h0 h1 => ?_, fun h1 h0 => ?_, fun _ hidle hc hr => ?_⟩
  · cases effect_of_step h with
    | completed i he hb => exact .inl ⟨he, hb⟩
    | refused w hc hb | belowTwo w i hc hb => exact .inr ⟨w, hc, hb⟩
    | started | reset => cases h1
    | dropped | cleared | limb | quiet => simp [h0] at h1
  · cases effect_of_step h with
    | cleared v hh => exact .inl ⟨v, by simpa [h1] using h0, hh⟩
    | started w i hc hb => exact .inr (.inl ⟨w, hc, hb⟩)
    | reset hr => exact .inr (.inr hr)
    | completed | refused | belowTwo => cases h0
    | dropped | limb | quiet => simp [h1] at h0
  · cases effect_of_step h with
    | completed _ _ hb => rw [hidle] at hb; cases hb
    | dropped w h' | refused w h' | belowTwo w _ h' | started w _ h' => exact absurd h' (hc w)
    | reset h' => exact absurd h' hr
    | cleared | limb | quiet => simp

/-- Settles O30: a drop is what sets `OVR`; the clear bit and a reset are what clears it. -/
theorem overrunFlag : Obligations.OverrunFlag := by
  intro s t h
  refine ⟨fun h0 => ⟨fun h1 => ?_, fun ⟨hb, w, hc⟩ => ?_⟩, fun h1 => ⟨fun h0 => ?_, fun hcr => ?_⟩⟩
  · cases effect_of_step h with
    | dropped w hc hb => exact ⟨hb, w, hc⟩
    | reset => cases h1
    | completed | refused | belowTwo | started | cleared | limb | quiet => simp [h0] at h1
  · rw [step_unique h (step_command_busy hc hb)]; rfl
  · cases effect_of_step h with
    | cleared v hh => exact .inl ⟨v, by simpa [h1] using h0, hh⟩
    | reset hr => exact .inr hr
    | dropped => cases h0
    | completed | refused | belowTwo | started | limb | quiet => simp [h1] at h0
  · rcases hcr with hc | hr
    · obtain ⟨v, hv, hs⟩ := clear_flags hc h
      simp [hs, hv]
    · rw [(reset_flags hr h).1]

/-- Settles O31: `ERR` in each effect; the codes written are 0 to 3. -/
theorem errorCode : Obligations.ErrorCode := by
  intro s t h
  refine ⟨fun hne => ?_, fun hs => ?_⟩
  · cases effect_of_step h with
    | completed i he hb => exact .inl ⟨he, hb⟩
    | refused w hc hb | belowTwo w i hc hb | started w i hc hb => exact .inr (.inl ⟨w, hc, hb⟩)
    | reset hr => exact .inr (.inr hr)
    | dropped | cleared | limb | quiet => simp at hne
  · cases effect_of_step h with
    | completed i => exact unitOf_err_ne_exhausted i s
    | refused | belowTwo | started | reset => exact nofun
    | dropped | cleared | limb | quiet => simpa using hs

/-- Settles O32: `irq` after each of the turns named, from the step's equation for that turn. -/
theorem interruptLine : Obligations.InterruptLine := by
  refine ⟨fun s => by simp [State.irq], fun s t h => ⟨fun he hb h0 => ?_, fun w hc hb => ?_, fun w hc hb => ?_,
    fun hc => ?_, fun hr => ?_⟩⟩
  · rcases engine_cases he hb h with rfl | ⟨i, rfl⟩
    · simp [hb] at h0
    · simp [State.irq]
  · rcases command_cases hc h with ⟨hb', _⟩ | ⟨_, rfl⟩ | ⟨i, _, rfl⟩
    · rw [hb] at hb'; cases hb'
    · simp [State.irq, hb]
    · rcases issue_cases i s with ⟨_, _, hi⟩ | ⟨_, hi⟩ <;> simp [State.irq, hi, hb]
  · rw [step_unique h (step_command_busy hc hb)]; rfl
  · obtain ⟨v, hv, hs⟩ := clear_flags hc h
    simp [State.irq, hs, hv]
  · simp [State.irq, (reset_flags hr h).2]

end Sys2Proof.Machine
end

section
/-! Every step keeps the invariant of safe states (R21, R29, R33, R43, R48, R187). Each effect has
its lemma; an idle state needs only its parameters, its ranges and its error code. -/
namespace Sys2Proof.Machine
open Sys2Proof.Safety

theorem bound_pos (s : State) : 0 < s.bound := Nat.two_pow_pos _

/-! ### Results fit their registers -/

theorem gcd_lt_of_lt {a b m : Nat} (ha : a < m) (hb : b < m) : Nat.gcd a b < m := by
  rcases Nat.eq_zero_or_pos a with rfl | hpos
  · rwa [Nat.gcd_zero_left]
  · exact lt_of_le_of_lt (Nat.gcd_le_left b hpos) ha

/-- A multi-base test answers 0 or 1 (R136). -/
theorem multiLoop_answer_le (n : Nat) (rho : Nat → Nat) : ∀ (left : Nat) (m : Multi),
    (multiLoop left n rho m).answer ≤ 1
  | 0, _ => le_refl 1
  | left + 1, m => by
    unfold multiLoop
    dsimp only
    split
    · exact Nat.zero_le 1
    · exact multiLoop_answer_le n rho left _

/-- The results of a command completed in its domain are W-bit integers (R42, R90, R100, R111, R115, R117, R133, R138). -/
theorem unitOf_results_lt {i : Instr} {s : State} (hr : InRange s) (hd : needsModulus i = true → 2 ≤ s.opN) :
    (unitOf i s).r0 < s.bound ∧ (unitOf i s).r1 < s.bound := by
  have hA := hr.opA
  have hB := hr.opB
  have hN := hr.opN
  have h0 := bound_pos s
  cases i with
  | modmul =>
    have hn : 2 ≤ s.opN := hd rfl
    exact ⟨(Nat.mod_lt _ (by omega)).trans hN, h0⟩
  | modpow =>
    have hn : 2 ≤ s.opN := hd rfl
    exact ⟨(powLoop_acc_lt (by omega) (bitlen s.opB) ⟨1, s.opA, s.opB⟩ hn).trans hN, h0⟩
  | gcd =>
    refine ⟨?_, h0⟩
    show (gcdRun s.opA s.opB s.work.euclid).r0 < _
    rw [gcdRun_r0]
    exact gcd_lt_of_lt hA hB
  | eeinv =>
    refine ⟨?_, (extRun_x0_lt (hd rfl)).trans hN⟩
    show (extRun s.opA s.opN s.work.euclid.q).r0 < _
    rw [extRun_r0]
    exact gcd_lt_of_lt hA hN
  | hasinv =>
    have hn : 2 ≤ s.opN := hd rfl
    refine ⟨?_, h0⟩
    show (if (extRun s.opA s.opN s.work.euclid.q).r0 = 1 then 1 else 0) < _
    split <;> omega
  | mrwit =>
    have hn : 2 ≤ s.opN := hd rfl
    have ha := trial_answer s.opN s.opA
    refine ⟨?_, h0⟩
    show (trial s.opN s.opA).answer < _
    omega
  | mrmulti rounds =>
    have hn : 2 ≤ s.opN := hd rfl
    have hle : (unitOf (.mrmulti rounds) s).r0 ≤ 1 := multiLoop_answer_le s.opN s.rho _ _
    exact ⟨by omega, h0⟩

/-! ### What keeps the invariant -/

/-- An idle state is safe if its parameters are legal, its registers fit and its code is not 4. -/
theorem inv_of_idle {s : State} (hb : s.status.busy = false) (hp : s.params.wellFormed = true) (hr : InRange s)
    (hc : s.status.err ≠ .exhausted) : Inv s where
  params := hp
  range := hr
  busyNotDone h := by rw [hb] at h; cases h
  busyNoError h := by rw [hb] at h; cases h
  running h := by rw [hb] at h; cases h
  code := hc
  heldInReset _ := hb

/-- The invariant speaks neither of `IE` nor of the surroundings, and of the `rst` line only while it is asserted. -/
theorem inv_quiet {s : State} (h : Inv s) {r : Bool} (hr : r = true → s.rstLine = true) (c : Ctrl) (answers : Bool)
    (d : Nat) (ag : List Event) (p : PortAnswer) :
    Inv { s with ctrl := c, rstLine := r, sourceAnswers := answers, draws := d, agenda := ag, port := p } where
  params := h.params
  range := ⟨h.range.regA, h.range.regB, h.range.regN, h.range.regR0, h.range.regR1, h.range.opA, h.range.opB, h.range.opN⟩
  busyNotDone := h.busyNotDone
  busyNoError := h.busyNoError
  running := h.running
  code := h.code
  heldInReset hl := h.heldInReset (hr hl)

theorem inv_answer {s : State} (h : Inv s) (p : PortAnswer) : Inv (answer p (advance s)) := inv_quiet h id _ _ _ _ _

/-- Flags that keep `BUSY` and `ERR` and do not raise `DONE` keep the invariant. -/
theorem inv_status {s : State} (h : Inv s) {st : Status} (hb : st.busy = s.status.busy) (he : st.err = s.status.err)
    (hd : s.status.done = false → st.done = false) : Inv { s with status := st } where
  params := h.params
  range := ⟨h.range.regA, h.range.regB, h.range.regN, h.range.regR0, h.range.regR1, h.range.opA, h.range.opB, h.range.opN⟩
  busyNotDone hs := hd (h.busyNotDone (hb ▸ hs))
  busyNoError hs := he.trans (h.busyNoError (hb ▸ hs))
  running hs := h.running (hb ▸ hs)
  code hs := h.code (he ▸ hs)
  heldInReset hl := hb.trans (h.heldInReset hl)

/-- A value with a limb below `L` replaced fits its register (R54). -/
theorem inv_writeLimb {s : State} (h : Inv s) (r : DataReg) {i : Nat} (v : BusWord) (hi : i < s.params.limbs) :
    Inv (writeLimb r i v s) := by
  cases r with
  | a => exact { h with range := { h.range with regA := withLimb_lt v h.range.regA hi } }
  | b => exact { h with range := { h.range with regB := withLimb_lt v h.range.regB hi } }
  | n => exact { h with range := { h.range with regN := withLimb_lt v h.range.regN hi } }
  | r0 | r1 => exact h

/-- Zeroed results fit, and so do the latched operands (R37, R43). -/
theorem inv_belowTwo {s : State} (h : Inv s) (hb : s.status.busy = false) (w : BusWord) :
    Inv (raiseAtIssue .domainViolation (latch w (storeCommand w s))) :=
  inv_of_idle hb h.params
    { h.range with
      regR0 := bound_pos s, regR1 := bound_pos s, opA := h.range.regA, opB := h.range.regB, opN := h.range.regN }
    nofun

theorem inv_refuseWord {s : State} (h : Inv s) (hb : s.status.busy = false) (w : BusWord) : Inv (refuseWord w s) :=
  inv_of_idle hb h.params
    ⟨h.range.regA, h.range.regB, h.range.regN, bound_pos s, bound_pos s, h.range.opA, h.range.opB, h.range.opN⟩ nofun

/-- A started command is the one `CMD` shows, is latched, and is in its domain (R37, R43, R48). -/
theorem inv_started {s : State} (h : Inv s) (hr : s.rstLine = false) {w : BusWord} {i : Instr}
    (hw : decode w = .ok i) (hm : needsModulus i = true → 2 ≤ s.regN) :
    Inv { latch w (storeCommand w s) with status := startRun (openIssue s.status) } where
  params := h.params
  range := { h.range with opA := h.range.regA, opB := h.range.regB, opN := h.range.regN }
  busyNotDone _ := rfl
  busyNoError _ := rfl
  running _ := by
    obtain ⟨-, -, -, hc⟩ := decode_eq_ok.1 hw
    exact ⟨i, hw, hc, hm⟩
  code := nofun
  heldInReset hl := by
    have hl' : s.rstLine = true := hl
    rw [hr] at hl'; cases hl'

/-- A completed command's results fit, and it ends idle (R42). -/
theorem inv_complete {s : State} (h : Inv s) {i : Instr} (hd : needsModulus i = true → 2 ≤ s.opN) :
    Inv (complete (unitOf i s) s) :=
  have hres := unitOf_results_lt h.range hd
  inv_of_idle rfl h.params
    ⟨h.range.regA, h.range.regB, h.range.regN, hres.1, hres.2, h.range.opA, h.range.opB, h.range.opN⟩
    (unitOf_err_ne_exhausted i s)

/-- Registers at R47's values, with legal parameters, are safe whatever the surroundings. -/
theorem inv_resetHardware {s : State} (hp : s.params.wellFormed = true) (r : Bool) (p : PortAnswer) :
    Inv { resetHardware s with rstLine := r, port := p } :=
  have h0 := bound_pos s
  inv_of_idle rfl hp ⟨h0, h0, h0, h0, h0, h0, h0, h0⟩ nofun

/-- Settles O53: each effect a step can have keeps the invariant. -/
theorem stepKeepsSafe : Obligations.StepKeepsSafe := by
  intro s t hs h
  have hans := inv_answer hs .written
  cases effect_of_step h with
  | completed i _ _ _ hd => exact inv_complete hs hd
  | dropped => exact inv_status hans rfl rfl id
  | refused w _ hb => exact inv_refuseWord hs hb w
  | belowTwo w _ _ hb => exact inv_belowTwo hans hb w
  | started w i hc _ hw hm => exact inv_started hans hc.1 hw hm
  | cleared v => exact inv_status hans rfl rfl fun hd => by rw [clearFlags_done, hd, Bool.false_and]
  | reset _ r p => exact inv_resetHardware (s := advance s) hs.params r p
  | limb r i v hi => exact inv_writeLimb hans r v hi
  | quiet c r answers d ag p hr => exact inv_quiet hs hr c answers d ag p

end Sys2Proof.Machine
end

section
/-! The hidden working registers are never visible (R41): each operation of a turn, run from two states that differ only
there, makes the same choice and leads to states that differ only there. -/
namespace Sys2Proof.Machine
open Sys2Proof.Safety

/-! ### The units: results, codes and draws do not depend on what the working registers held -/

/-- The quotient register is written before it is read (R113). -/
theorem extRun_x0_congr (b n q q' : Nat) : (extRun b n q).x0 = (extRun b n q').x0 := by
  cases n with
  | zero => rfl
  | succ n => rfl

/-- The rounds of R136 carry the working registers along and read none of them. -/
theorem multiLoop_withWork (n : Nat) (rho : Nat → Nat) : ∀ (left : Nat) (m : Multi) (w : Working),
    ∃ w', multiLoop left n rho { m with work := w } = { multiLoop left n rho m with work := w' }
  | 0, _, w => ⟨w, rfl⟩
  | left + 1, m, w => by
    unfold multiLoop
    dsimp only
    split
    · exact ⟨_, rfl⟩
    · exact multiLoop_withWork n rho left
        { m with
          j := m.j + 1, used := m.used ++ [drawBase n m.used (rho m.cursor)], cursor := m.cursor + 1,
          work := storeTrial (trial n (drawBase n m.used (rho m.cursor))) m.work } _

/-- Answer and cursor of a multi-base test. -/
theorem mrMulti_congr_work (n rounds : Nat) (rho : Nat → Nat) (c : Nat) (w w' : Working) :
    (mrMulti n rounds rho c w).answer = (mrMulti n rounds rho c w').answer ∧
      (mrMulti n rounds rho c w).cursor = (mrMulti n rounds rho c w').cursor := by
  obtain ⟨v, h⟩ := multiLoop_withWork n rho (effectiveRounds n rounds)
    { answer := 1, j := 0, used := [], cursor := c, work := w' } w
  have ha := congrArg Multi.answer h
  have hc := congrArg Multi.cursor h
  exact ⟨ha, hc⟩

/-- What a unit delivers to the visible registers and the cursor (R41, R42). -/
theorem unitOf_withWork (i : Instr) (s : State) (w : Working) :
    (unitOf i { s with work := w }).r0 = (unitOf i s).r0 ∧ (unitOf i { s with work := w }).r1 = (unitOf i s).r1 ∧
      (unitOf i { s with work := w }).err = (unitOf i s).err ∧
      (unitOf i { s with work := w }).cursor = (unitOf i s).cursor := by
  cases i with
  | modmul | modpow | mrwit => exact ⟨rfl, rfl, rfl, rfl⟩
  | gcd => exact ⟨(gcdRun_r0 _ _ _).trans (gcdRun_r0 _ _ _).symm, rfl, rfl, rfl⟩
  | eeinv =>
    have hx : (unitOf .eeinv { s with work := w }).r1 = (unitOf .eeinv s).r1 := extRun_x0_congr _ _ _ _
    refine ⟨?_, hx, ?_, rfl⟩ <;> simp only [unitOf, eeinvUnit, extRun_r0]
  | hasinv =>
    refine ⟨?_, rfl, rfl, rfl⟩
    simp only [unitOf, hasinvUnit, plainResult, extRun_r0]
  | mrmulti rounds =>
    obtain ⟨ha, hc⟩ := mrMulti_congr_work s.opN s.rnds.toNat s.rho s.cursor w s.work
    exact ⟨ha, rfl, rfl, hc⟩

/-! ### The operations of a turn -/

theorem complete_agree {u u' : UnitResult} (h0 : u'.r0 = u.r0) (h1 : u'.r1 = u.r1) (he : u'.err = u.err)
    (hc : u'.cursor = u.cursor) (s : State) (w : Working) :
    AgreeButWork (complete u s) (complete u' { s with work := w }) :=
  ⟨u'.work, by rw [complete, complete, h0, h1, he, hc]; rfl⟩

/-- An issue and its refusal leave the working registers alone (R43). -/
theorem issue_agree (i : Instr) (s : State) (w : Working) : AgreeButWork (issue i s) (issue i { s with work := w }) := by
  refine ⟨w, ?_⟩
  unfold issue
  dsimp only
  split <;> rfl

/-- A command, at issue or at completion, makes the same choices (R41, R43, R45). -/
theorem exec_agree (i : Instr) (s : State) (w : Working) :
    OutcomesAgreeButWork (exec i s) (exec i { s with work := w }) := by
  have hwait : waitsForSource { s with work := w } = waitsForSource s := rfl
  rw [exec_eq, exec_eq, hwait]
  split
  · exact ⟨w, rfl⟩
  · unfold runCommand
    dsimp only
    split
    · split
      · rfl
      · obtain ⟨h0, h1, he, hc⟩ := unitOf_withWork i s w
        exact complete_agree h0 h1 he hc s w
    · exact issue_agree i s w

theorem readLocation_withWork (s : State) (w : Working) (l : Location) :
    readLocation { s with work := w } l = readLocation s l := by
  cases l with
  | limb r i => cases r <;> rfl
  | _ => rfl

theorem hostRead_agree (l : Location) (s : State) (w : Working) :
    AgreeButWork (hostRead l s) (hostRead l { s with work := w }) := by
  refine ⟨w, ?_⟩
  unfold hostRead
  rw [readLocation_withWork]
  dsimp only
  split <;> rfl

theorem hostWrite_agree (l : Location) (v : BusWord) (s : State) (w : Working) :
    AgreeButWork (hostWrite l v s) (hostWrite l v { s with work := w }) := by
  cases l with
  | cmd | status | cap | reserved => exact ⟨w, rfl⟩
  | limb r i => cases r <;> exact ⟨w, rfl⟩
  | ctrl =>
    show AgreeButWork (writeCtrl v s) (writeCtrl v { s with work := w })
    unfold writeCtrl
    split
    · exact ⟨Working.reset, rfl⟩
    · exact ⟨w, rfl⟩

theorem rstTurn_agree (asserted : Bool) (s : State) (w : Working) :
    AgreeButWork (rstTurn asserted s) (rstTurn asserted { s with work := w }) := by
  cases asserted with
  | true => exact ⟨Working.reset, rfl⟩
  | false => exact ⟨w, rfl⟩

/-! ### The turn -/

/-- Two turns of the same kind: the same command, states that differ in working registers only, or the same stop. -/
inductive TurnsAgree : Turn → Turn → Prop
  | run (i : Instr) : TurnsAgree (.run i) (.run i)
  | settled {t u : State} (h : AgreeButWork t u) : TurnsAgree (.settled t) (.settled u)
  | stuck (f : Fault) : TurnsAgree (.stuck f) (.stuck f)

theorem cmdWrite_agree (v : BusWord) (s : State) (w : Working) :
    TurnsAgree (cmdWrite v s) (cmdWrite v { s with work := w }) := by
  unfold cmdWrite
  dsimp only
  split
  · exact .settled ⟨w, rfl⟩
  · split
    · exact .run _
    · exact .settled ⟨w, rfl⟩

theorem windowTurn_agree (off : Nat) (a : Access) (s : State) (w : Working) :
    TurnsAgree (windowTurn off a s) (windowTurn off a { s with work := w }) := by
  unfold windowTurn
  split
  · cases a with
    | read addr size => exact .settled (hostRead_agree _ (advance s) w)
    | write addr size v =>
      dsimp only
      split
      · exact cmdWrite_agree v s w
      · exact .settled (hostWrite_agree _ v (answer .written (advance s)) w)
  · exact .settled ⟨w, rfl⟩

theorem accessTurn_agree (a : Access) (s : State) (w : Working) :
    TurnsAgree (accessTurn a s) (accessTurn a { s with work := w }) := by
  unfold accessTurn
  dsimp only
  split
  · exact .settled ⟨w, rfl⟩
  · split
    · exact .settled ⟨w, rfl⟩
    · exact windowTurn_agree _ a s w

theorem engineTurn_agree (s : State) (w : Working) : TurnsAgree (engineTurn s) (engineTurn { s with work := w }) := by
  unfold engineTurn
  dsimp only
  split
  · exact .settled ⟨w, rfl⟩
  · split
    · split
      · exact .run _
      · exact .stuck _
    · exact .settled ⟨w, rfl⟩

theorem nextTurn_agree (s : State) (w : Working) : TurnsAgree (nextTurn s) (nextTurn { s with work := w }) := by
  unfold nextTurn
  dsimp only
  split
  · exact engineTurn_agree s w
  · exact accessTurn_agree _ s w
  · exact engineTurn_agree s w
  · exact .settled (rstTurn_agree _ s w)
  · exact .settled ⟨w, rfl⟩

/-- Settles O59: the turns agree, and so do the commands they run. -/
theorem workingRegistersHidden : Obligations.WorkingRegistersHidden := by
  rintro s _ ⟨w, rfl⟩
  have hturn := nextTurn_agree s w
  unfold step
  generalize nextTurn s = turn, nextTurn { s with work := w } = turn' at hturn
  cases hturn with
  | run i => exact exec_agree i s w
  | settled h => exact h
  | stuck f => exact rfl

end Sys2Proof.Machine
end

section
/-! The registers the host sees, `STATUS`, `CTRL`, `CAP`, `CMD` and the limbs of a data register (R24, R28, R29, R34, R35),
from the step's equation for the turn and the bits of the words read. -/
namespace Sys2Proof.Machine
open Sys2Proof.Safety

/-- A read of a control register answers it, whatever `BUSY` is, and changes nothing else (R58). -/
theorem step_read_control {s : State} {off : Nat} {l : Location} (h : HostTurn s (readAt s.params off))
    (hw : off < 4096) (ha : off % 4 = 0) (hl : locate s.params.limbs off = l) (hr : isResultLimb l = false) :
    step s = .next { s with agenda := s.agenda.tail, port := .data (readLocation (advance s) l) } := by
  rw [step_read h hw ha, hl]
  rcases hostRead_cases l (advance s) with ⟨ht, _, _⟩ | ⟨_, he⟩
  · rw [hr] at ht; cases ht
  · rw [he]; rfl

/-! ### `STATUS` -/

/-- The four fields of `STATUS` do not overlap, and fill bits 0 to 2 and 4 to 7 (R29). -/
theorem status_fields : ∀ (busy done ovr : Bool) (err : BitVec 4),
    let w := flagBit busy 0 ||| flagBit done 1 ||| flagBit ovr 2 ||| (err.setWidth 32 <<< 4)
    w.getLsbD 0 = busy ∧ w.getLsbD 1 = done ∧ w.getLsbD 2 = ovr ∧ w.getLsbD 3 = false ∧
      w.toNat / 16 % 16 = err.toNat ∧ w.toNat / 256 = 0 := by
  decide

/-- The two clear bits of a write to `STATUS` (R29). -/
theorem clearFlags_eq (v : BusWord) (st : Status) :
    clearFlags v st =
      { busy := st.busy, done := if v.getLsbD 1 then false else st.done,
        ovr := if v.getLsbD 2 then false else st.ovr, err := st.err } := by
  unfold clearFlags
  cases v.getLsbD 1 <;> cases v.getLsbD 2 <;> simp

/-- Settles O17: a read is the four fields, a write is the two clear bits, and the last clauses are the invariant's and the
reset value's. -/
theorem statusRegister : Obligations.StatusRegister := by
  refine ⟨fun s h => ?_, fun s v h => ?_, fun s h ⟨hb, hd⟩ => ?_, rfl⟩
  · exact ⟨statusWord s.status, step_read_control h (by decide) (by decide) rfl rfl,
      status_fields s.status.busy s.status.done s.status.ovr (errBits s.status.err)⟩
  · rw [step_writeStatus h, ← clearFlags_eq]; rfl
  · rw [h.busyNotDone hb] at hd; cases hd

/-! ### `CTRL` -/

theorem ctrlWord_eq (c : Ctrl) : ctrlWord c = if c.ie then 0x00000001#32 else 0x00000000#32 := rfl

/-- Every register is at R47's value after a reset, whatever the line and the port (R47). -/
theorem resetValues_resetHardware (s : State) (r : Bool) (p : PortAnswer) :
    ResetValues { resetHardware s with rstLine := r, port := p } := by
  have hstatus : statusWord ⟨false, false, false, .none⟩ = 0x00000000#32 := rfl
  have hctrl : ctrlWord ⟨false⟩ = 0x00000000#32 := rfl
  simp [ResetValues, hstatus, hctrl, Working.reset, State.cap, State.irq]

/-- Settles O8: `State.reset` holds what a reset leaves, but for the counter of free values. -/
theorem resetState : Obligations.ResetState := resetValues_resetHardware State.reset false .idle

/-- Settles O18: a write is the soft reset or sets `IE`, by bit 1. -/
theorem controlRegister : Obligations.ControlRegister := by
  refine ⟨fun s h => ?_, fun s v h hv => ?_, fun s v h hv => ?_, fun s h => ?_, fun s h => ?_, rfl⟩
  · rw [← ctrlWord_eq]
    exact step_read_control h (by decide) (by decide) rfl rfl
  · rw [step_writeCtrl h, writeCtrl, hv]; rfl
  · obtain ⟨r, p, ht⟩ := step_reset (.inr ⟨v, hv, h⟩)
    exact ⟨_, ht, resetValues_resetHardware (advance s) r p⟩
  · rw [State.irq, h, Bool.true_and]
  · rw [State.irq, h, Bool.false_and]

/-! ### `CAP` -/

/-- `CAP` as read holds `L`, which fits its field (R6, R35). -/
theorem cap_toNat {s : State} (h : s.params.wellFormed = true) : s.cap.toNat = s.params.limbs ∧ s.params.limbs ≤ 64 := by
  have hl : s.params.limbs ≤ 64 := by
    simp only [Params.wellFormed, Bool.and_eq_true, decide_eq_true_eq] at h
    exact h.1.2
  refine ⟨?_, hl⟩
  rw [State.cap, BitVec.toNat_ofNat]
  omega

/-- Settles O19: `L` is at most 64, so its field holds it; no write reaches it. -/
theorem capRegister : Obligations.CapRegister := by
  intro s hp
  refine ⟨fun h => ?_, fun v h => ?_⟩
  · obtain ⟨hcap, hl⟩ := cap_toNat hp
    have hw : s.params.width = 32 * s.params.limbs := rfl
    exact ⟨s.cap, step_read_control h (by decide) (by decide) rfl rfl, by omega, by omega, by omega⟩
  · exact step_write h (by decide) (by decide) (by decide)

/-! ### `CMD` -/

/-- An issue, refused or not, leaves the word in `CMD` (R28, R43). -/
theorem issue_cmd (i : Instr) (s : State) : (issue i s).cmd = encode i := by
  rcases issue_cases i s with ⟨_, _, h⟩ | ⟨_, h⟩ <;> simp [h]

/-- Settles O20: refused or issued, the word written is the word in `CMD`, as the encoder gives back a decoded word. -/
theorem commandRegister : Obligations.CommandRegister := by
  refine ⟨fun s w h hb => ?_, fun s w h hb => step_command_busy h hb, fun s h => ?_, rfl, fun i => ?_⟩
  · cases hd : decode w with
    | error e => exact ⟨_, step_command_illegal h hb hd, rfl⟩
    | ok i =>
      exact ⟨_, (step_command_legal h hb hd).trans (exec_idle hb), (issue_cmd i s).trans (encode_of_decode hd)⟩
  · exact step_read_control h (by decide) (by decide) rfl rfl
  · exact nofun

/-! ### Limbs -/

/-- The first `limbs` limbs make the value modulo `2 ^ (32 · limbs)` (R24). -/
theorem sum_limbs (v : Nat) : ∀ limbs : Nat,
    ((List.range limbs).map fun i => (limbOf v i).toNat * 2 ^ (32 * i)).sum = v % 2 ^ (32 * limbs)
  | 0 => by simp [Nat.mod_one]
  | limbs + 1 => by
    rw [List.range_succ, List.map_append, List.sum_append, sum_limbs v limbs, List.map_singleton, List.sum_singleton,
      limbOf_toNat, show 32 * (limbs + 1) = 32 * limbs + 32 by ring, pow_add, Nat.mod_mul, Nat.mul_comm (2 ^ (32 * limbs))]

/-- Settles O21: a value of one limb has no other, as `limbOf_high` says. -/
theorem limbValue : Obligations.LimbValue := by
  intro limbs v hv
  refine ⟨by rw [sum_limbs, Nat.mod_eq_of_lt hv], fun h1 => ⟨?_, fun i hi => ?_⟩⟩
  · rw [limbOf_toNat]; omega
  · exact limbOf_high (limbs := 1) (by omega) hi

end Sys2Proof.Machine
end

section
/-! Issue and the sequencer (R42, R43, R45): the whole next state of a `CMD` write, which command a step runs, the turns
that pass, the model's two stops, and the frame of all commands. -/
namespace Sys2Proof.Machine
open Sys2Proof.Safety

theorem fieldOp_eq_ofNat (w : BusWord) : fieldOp w = BitVec.ofNat 4 (w.toNat % 16) := by
  rw [← fieldOp_toNat, BitVec.ofNat_toNat, BitVec.setWidth_eq]

theorem fieldRounds_eq_ofNat (w : BusWord) : fieldRounds w = BitVec.ofNat 8 (w.toNat / 256 % 256) := by
  rw [← fieldRounds_toNat, BitVec.ofNat_toNat, BitVec.setWidth_eq]

/-- Every command but GCD, operation code 3, needs a modulus (R43). -/
theorem needsModulus_iff (i : Instr) : needsModulus i = true ↔ opcodeOf i ≠ 3 := by
  cases i <;> simp [needsModulus, opcodeOf]

/-- Settles O24: the three checks in R189's order, each with the state its branch builds. -/
theorem commandIssue : Obligations.CommandIssue := by
  intro s w h
  by_cases hbusy : s.status.busy = true
  · rw [if_pos hbusy]; exact step_command_busy h hbusy
  have hb : s.status.busy = false := by simpa using hbusy
  rw [if_neg hbusy]
  cases hd : decode w with
  | error e => rw [if_pos (legalWord_eq_false.2 ⟨e, hd⟩), step_command_illegal h hb hd, ← hb]; rfl
  | ok i =>
    have hlegal : ¬legalWord w = false := by rw [(legalWord_iff w).2 ⟨i, hd⟩]; exact nofun
    have hmod : w.toNat % 16 ≠ 3 ↔ needsModulus i = true := by rw [needsModulus_iff, (toNat_of_decode hd).1]
    rw [if_neg hlegal, step_command_legal h hb hd, exec_idle hb, ← fieldOp_eq_ofNat, ← fieldRounds_eq_ofNat]
    rcases issue_cases i s with ⟨hm, hn, hi⟩ | ⟨hm, hi⟩
    · rw [if_pos ⟨hmod.2 hm, hn⟩, hi, encode_of_decode hd, ← hb]; rfl
    · rw [if_neg fun hc => absurd (hm (hmod.1 hc.1)) (by omega), hi, encode_of_decode hd]; rfl

/-- Settles O25: the two turns that run a command. -/
theorem stepRunsCommand : Obligations.StepRunsCommand :=
  ⟨fun _ _ _ h hb hd => step_command_legal h hb hd, fun _ _ h hb hi => step_engine_busy h hb hi⟩

/-- A table word that decodes is a bus word that decodes. -/
theorem decodeTableWord_eq_some {nbits w : Nat} {i : Instr} (h : decodeTableWord nbits w = some i) :
    ∃ word, tableWord nbits w = some word ∧ decode word = .ok i := by
  unfold decodeTableWord at h
  cases ht : tableWord nbits w with
  | none => simp [ht] at h
  | some word =>
    cases hd : decode word with
    | error e => simp [ht, hd] at h
    | ok j =>
      simp only [ht, hd, Option.some.injEq] at h
      exact ⟨word, rfl, h ▸ hd⟩

/-- Settles O26: the placed word is a served `CMD` write in an idle state. -/
theorem fetchWordRuns : Obligations.FetchWordRuns := by
  intro s nbits w i h
  obtain ⟨word, ht, hd⟩ := decodeTableWord_eq_some h
  have hplace : s.withFetchWord nbits w = placeCommand word s := by simp [State.withFetchWord, ht]
  rw [hplace]
  have hc : CommandTurn (placeCommand word s) word := ⟨rfl, rfl⟩
  exact step_command_legal hc rfl hd

/-- With nothing scheduled, taking the turn takes nothing. -/
theorem advance_of_nil {s : State} (h : s.agenda = []) : advance s = s := by
  rw [advance, h, List.tail_nil, ← h]

/-- Settles O27: with an empty agenda it is the engine's turn, whether `rst` holds it or not. -/
theorem idleStays : Obligations.IdleStays := by
  refine ⟨fun s h hb => step_engine_idle h hb, fun s h hb => ?_⟩
  have hturn : nextTurn s = .settled (advance s) := by
    rw [nextTurn_engine (.inl h)]
    rcases engineTurn_cases s with ⟨_, ht⟩ | ⟨_, _, hb', _⟩ | ⟨_, hb', _⟩
    · exact ht
    · rw [hb] at hb'; cases hb'
    · rw [hb] at hb'; cases hb'
  rw [step_settled hturn, advance_of_nil h]

/-- Settles O40: the premises are the wait of R45. -/
theorem mrmultiWaits : Obligations.MrmultiWaits := by
  intro s rounds hb hsrc hre
  have hw : waitsForSource s = true := (waitsForSource_iff s).2 ⟨hb, hsrc, hre⟩
  rw [exec_eq, if_pos ⟨rfl, hw⟩]; rfl

/-- With no modulus of at least 2 there is no round to draw for (R139). -/
theorem not_waitsForSource_of_lt {s : State} (hn : s.opN < 2) : ¬waitsForSource s = true := by
  rw [waitsForSource_iff]
  rintro ⟨-, -, hre⟩
  omega

/-- Settles O41: below 2 nothing waits for a draw, so the completion is reached; operation codes 0 and 8 to 15 name no
command. -/
theorem stopsOutsideDomain : Obligations.StopsOutsideDomain := by
  refine ⟨fun s i hb hm hn => ?_, fun s h hb hop => ?_⟩
  · rw [exec_eq, if_neg fun hw => not_waitsForSource_of_lt hn hw.2, runCommand_below hb hm hn]
  · refine step_engine_none h hb (Option.not_isSome_iff_eq_none.1 ?_)
    rw [commandOfOp_isSome]
    omega

/-- Only MRMULTI takes words of the random stream (R45, R138). -/
theorem unitOf_cursor {i : Instr} (hi : ∀ rounds, i ≠ .mrmulti rounds) (s : State) : (unitOf i s).cursor = s.cursor := by
  cases i with
  | mrmulti rounds => exact absurd rfl (hi rounds)
  | _ => rfl

/-- Settles O57: the frames of the wait, of the two ends of an issue, and of a completion. -/
theorem commandsKeepOperands : Obligations.CommandsKeepOperands := by
  intro i s t h
  rcases exec_cases h with ⟨_, _, rfl⟩ | ⟨_, rfl⟩ | ⟨_, _, rfl⟩
  · simp
  · rcases issue_cases i s with ⟨_, _, hi⟩ | ⟨_, hi⟩ <;> simp [hi]
  · have hcur := unitOf_cursor (i := i) (s := s)
    simpa using hcur

end Sys2Proof.Machine
end

section
/-! The hidden working registers stay in their widths (R38 to R40). Only a completion and a reset write them, so the proof
is one bound per unit's loop; `WorkFits { s with work := w }` says that `w` fits the widths of `s`. -/
namespace Sys2Proof.Machine
open Sys2Proof.Safety

/-! ### Bounds of the loops -/

/-- The exponentiation engine's registers (R38). -/
theorem powRun_lt {a e n m : Nat} (hn : 2 ≤ n) (hm : n ≤ m) (ha : a < m) (he : e < m) :
    (powRun a e n).acc < m ∧ (powRun a e n).base < m ∧ (powRun a e n).ex < m :=
  ⟨(powLoop_acc_lt (by omega) (bitlen e) ⟨1, a, e⟩ hn).trans_le hm,
    powLoop_base_lt (by omega) hm (bitlen e) ⟨1, a, e⟩ ha,
    (powLoop_ex_le (bitlen e) ⟨1, a, e⟩).trans_lt he⟩

/-- The loop of R110 keeps a bound on its two registers and does not touch the others (R39). -/
theorem gcdLoop_lt {m : Nat} : ∀ (rounds : Nat) (e : EuclidRegs), e.r0 < m → e.r1 < m →
    (gcdLoop rounds e).r0 < m ∧ (gcdLoop rounds e).r1 < m ∧ (gcdLoop rounds e).x0 = e.x0 ∧
      (gcdLoop rounds e).x1 = e.x1 ∧ (gcdLoop rounds e).q = e.q
  | 0, _, h0, h1 => ⟨h0, h1, rfl, rfl, rfl⟩
  | rounds + 1, e, h0, h1 => by
    unfold gcdLoop
    split
    · exact ⟨h0, h1, rfl, rfl, rfl⟩
    · exact gcdLoop_lt rounds { e with r0 := e.r1, r1 := e.r0 % e.r1 } h1 ((Nat.mod_le _ _).trans_lt h0)

theorem trailingZeros_le : ∀ bits m : Nat, trailingZeros bits m ≤ bits
  | 0, _ => le_refl 0
  | bits + 1, m => by
    unfold trailingZeros
    split
    · exact Nat.succ_le_succ (trailingZeros_le bits _)
    · exact Nat.zero_le _

theorem bitlen_le {v k : Nat} (h : v < 2 ^ k) : bitlen v ≤ k := by
  unfold bitlen
  split
  · exact Nat.zero_le k
  · exact (Nat.log2_lt ‹_›).2 h

/-- The power of two in `n − 1` is a count up to `W`, and the odd part fits (R40, R130). -/
theorem decomp_le {n k : Nat} (h : n < 2 ^ k) : (decomp n).1 ≤ k ∧ (decomp n).2 < 2 ^ k :=
  have hlt : n - 1 < 2 ^ k := by omega
  ⟨(trailingZeros_le _ _).trans (bitlen_le hlt), (Nat.div_le_self _ _).trans_lt hlt⟩

/-- A drawn base lies below the candidate (R137). -/
theorem drawBase_lt {n : Nat} (hn : 3 ≤ n) (used : List Nat) (r : Nat) : drawBase n used r < n := by
  obtain ⟨k, -, heq, -⟩ := stepUnused_spec hn used r used.length 0
  have hlt := Nat.mod_lt (r + 0 + k) (show 0 < n - 2 by omega)
  have hdraw : drawBase n used r = 2 + (r + 0 + k) % (n - 2) := heq
  omega

/-! ### What each unit leaves -/

/-- The widths speak of the working registers and the parameters alone. -/
theorem workFits_congr {s t : State} (h : WorkFits s) (hw : t.work = s.work) (hp : t.params = s.params) : WorkFits t := by
  have hb : t.bound = s.bound := by rw [State.bound, State.bound, hp]
  constructor <;> simp only [hw, hp, hb]
  exacts [h.acc, h.base, h.ex, h.r0, h.r1, h.x0, h.x1, h.quotient, h.count, h.odd, h.t, h.squarings, h.usedLength, h.used]

/-- A run of the exponentiation engine (R101). -/
theorem workFits_pow {s : State} (h : WorkFits s) {a e n : Nat} (hn : 2 ≤ n) (hlt : n < s.bound) (ha : a < s.bound)
    (he : e < s.bound) : WorkFits { s with work := { s.work with pow := powRun a e n } } :=
  have hp := powRun_lt hn hlt.le ha he
  { h with acc := hp.1, base := hp.2.1, ex := hp.2.2 }

/-- A run of GCD (R110). -/
theorem workFits_gcd {s : State} (h : WorkFits s) {a b : Nat} (ha : a < s.bound) (hb : b < s.bound) :
    WorkFits { s with work := { s.work with euclid := gcdRun a b s.work.euclid } } := by
  obtain ⟨h0, h1, hx0, hx1, hq⟩ := gcdLoop_lt b { s.work.euclid with r0 := a, r1 := b } ha hb
  exact { h with
    r0 := h0, r1 := h1, x0 := hx0.trans_lt h.x0, x1 := hx1.trans_lt h.x1, quotient := hq.trans_lt h.quotient }

/-- A run of EEINV or HASINV (R113, R114). -/
theorem workFits_ext {s : State} (h : WorkFits s) {b n : Nat} (hn : 2 ≤ n) (hlt : n < s.bound) (hb : b < s.bound) :
    WorkFits { s with work := { s.work with euclid := extRun b n s.work.euclid.q } } := by
  have h1 : 1 < n := hn
  obtain ⟨hr0, hr1, hx0, hx1, hq⟩ := extLoop_lt (by omega) hlt.le n
    { r0 := b, r1 := n, x0 := 1, x1 := 0, q := s.work.euclid.q } hb hlt h1 (by show 0 < n; omega) h.quotient
  exact { h with r0 := hr0, r1 := hr1, x0 := hx0.trans hlt, x1 := hx1.trans hlt, quotient := hq }

/-- One single-base test (R131): the engine's run, the odd part, and at most `k - 1` squarings. -/
theorem workFits_trial {s : State} {w : Working} (h : WorkFits { s with work := w }) {n base : Nat} (hn : 2 ≤ n)
    (hlt : n < s.bound) (hb : base < s.bound) :
    WorkFits { s with work := storeTrial (trial n base) w } := by
  obtain ⟨hk, hq⟩ := decomp_le hlt
  obtain ⟨hacc, hbase, hex⟩ := powRun_lt hn hlt.le hb hq
  unfold trial
  dsimp only
  split
  · exact { h with
      acc := hacc, base := hbase, ex := hex, count := hk, odd := hq, t := hacc, squarings := Nat.zero_le _ }
  · obtain ⟨hi, ht⟩ := squareLoop_bounds (by omega) hlt.le ((decomp n).1 - 1) (powRun base (decomp n).2 n).acc 0 hacc
    have hsq : (squareLoop ((decomp n).1 - 1) n (powRun base (decomp n).2 n).acc 0).i ≤ s.params.width := by omega
    exact { h with acc := hacc, base := hbase, ex := hex, count := hk, odd := hq, t := ht, squarings := hsq }

/-- The rounds of R136: each is a single-base test and adds one drawn base. -/
theorem multiLoop_fits {s : State} {n : Nat} (hlt : n < s.bound) (rho : Nat → Nat) : ∀ (left : Nat) (m : Multi),
    (0 < left → 3 ≤ n) → WorkFits { s with work := m.work } → (∀ b ∈ m.used, b < s.bound) →
    WorkFits { s with work := (multiLoop left n rho m).work } ∧
      (multiLoop left n rho m).used.length ≤ m.used.length + left ∧
      ∀ b ∈ (multiLoop left n rho m).used, b < s.bound
  | 0, _, _, hw, hu => ⟨hw, le_refl _, hu⟩
  | left + 1, m, hn, hw, hu => by
    have hn3 : 3 ≤ n := hn (Nat.succ_pos left)
    have hdraw : drawBase n m.used (rho m.cursor) < s.bound := (drawBase_lt hn3 _ _).trans hlt
    have hw' := workFits_trial hw (by omega) hlt hdraw
    have hu' : ∀ b ∈ m.used ++ [drawBase n m.used (rho m.cursor)], b < s.bound := by
      intro b hb
      rcases List.mem_append.1 hb with hb | hb
      · exact hu b hb
      · rw [List.mem_singleton.1 hb]; exact hdraw
    unfold multiLoop
    dsimp only
    split
    · refine ⟨hw', ?_, hu'⟩
      simp only [List.length_append, List.length_singleton]
      omega
    · obtain ⟨h1, h2, h3⟩ := multiLoop_fits hlt rho left
        { m with
          j := m.j + 1, used := m.used ++ [drawBase n m.used (rho m.cursor)], cursor := m.cursor + 1,
          work := storeTrial (trial n (drawBase n m.used (rho m.cursor))) m.work } (fun _ => hn3) hw' hu'
      simp only [List.length_append, List.length_singleton] at h2
      exact ⟨h1, by omega, h3⟩

/-- A multi-base test of at most 255 rounds (R135, R138). -/
theorem workFits_multi {s : State} (h : WorkFits s) {n : Nat} (hlt : n < s.bound) (rounds : BitVec 8) (rho : Nat → Nat)
    (c : Nat) :
    WorkFits { s with
      work := storeMulti (effectiveRounds n rounds.toNat) (mrMulti n rounds.toNat rho c s.work) } := by
  have hre : effectiveRounds n rounds.toNat ≤ 255 := (Nat.min_le_left _ _).trans (Nat.le_pred_of_lt rounds.isLt)
  have hn : 0 < effectiveRounds n rounds.toNat → 3 ≤ n := fun hpos => by
    have := Nat.min_le_right rounds.toNat (n - 2)
    unfold effectiveRounds at hpos
    omega
  obtain ⟨hw, hlen, hu⟩ := multiLoop_fits hlt rho _
    { answer := 1, j := 0, used := [], cursor := c, work := s.work } hn h nofun
  have hlen' : (mrMulti n rounds.toNat rho c s.work).used.length ≤ 255 :=
    hlen.trans (by simpa using hre)
  exact { hw with usedLength := hlen', used := hu }

/-- What the unit of a command completed in its domain leaves (R38 to R40). -/
theorem workFits_unitOf {i : Instr} {s : State} (h : WorkFits s) (hr : InRange s)
    (hd : needsModulus i = true → 2 ≤ s.opN) : WorkFits { s with work := (unitOf i s).work } := by
  cases i with
  | modmul => exact h
  | modpow => exact workFits_pow h (hd rfl) hr.opN hr.opA hr.opB
  | gcd => exact workFits_gcd h hr.opA hr.opB
  | eeinv | hasinv => exact workFits_ext h (hd rfl) hr.opN hr.opA
  | mrwit => exact workFits_trial h (hd rfl) hr.opN hr.opA
  | mrmulti rounds => exact workFits_multi h hr.opN s.rnds s.rho s.cursor

/-- Working registers at 0 fit (R47). -/
theorem workFits_reset {s : State} (hw : s.work = Working.reset) : WorkFits s := by
  have h0 := bound_pos s
  constructor <;> rw [hw]
  exacts [h0, h0, h0, h0, h0, h0, h0, h0, Nat.zero_le _, h0, h0, Nat.zero_le _, Nat.zero_le _, nofun]

/-- Settles O52: `State.reset` is idle with every register 0, and 0 fits. -/
theorem resetSafe : Obligations.ResetSafe :=
  have h0 := bound_pos State.reset
  ⟨inv_of_idle rfl (by decide) ⟨h0, h0, h0, h0, h0, h0, h0, h0⟩ nofun, workFits_reset rfl⟩

/-- Settles O55: a completion leaves what its unit leaves, a reset zeros, every other effect what was there. -/
theorem workingRegistersFit : Obligations.WorkingRegistersFit := by
  intro s t hs hw h
  cases effect_of_step h with
  | completed i _ _ _ hd => exact workFits_congr (workFits_unitOf hw hs.range hd) rfl rfl
  | reset => exact workFits_reset rfl
  | limb r i v => exact workFits_congr hw (writeLimb_work r i v _) (writeLimb_params r i v _)
  | dropped | refused | belowTwo | started | cleared | quiet => exact workFits_congr hw rfl rfl

end Sys2Proof.Machine
end

section
/-! The encoder and the decoder, from the word and from its bytes (R57, R70, R72, R75). -/
namespace Sys2Proof

theorem byteLane_toNat (w : BusWord) (k : Nat) : (byteLane w k).toNat = w.toNat / 2 ^ (8 * k) % 256 := by
  simp [byteLane, Nat.shiftRight_eq_div_pow]

/-- Neighbouring lanes are neighbouring bits, and the four of them are the whole word (R57). -/
theorem wordOfLanes_byteLane (w : BusWord) :
    wordOfLanes (byteLane w 0) (byteLane w 1) (byteLane w 2) (byteLane w 3) = w := by
  simp only [wordOfLanes, byteLane]
  rw [BitVec.extractLsb'_append_extractLsb'_eq_extractLsb' (by decide),
    BitVec.extractLsb'_append_extractLsb'_eq_extractLsb' (by decide),
    BitVec.extractLsb'_append_extractLsb'_eq_extractLsb' (by decide)]
  exact BitVec.extractLsb'_eq_self

/-- Settles O7: each lane as a part of the word's number, and the lanes side by side. -/
theorem byteLanes : Obligations.ByteLanes := fun w => ⟨fun k _ => byteLane_toNat w k, wordOfLanes_byteLane w⟩

/-- Reading the four bytes of a word is decoding it, and what follows them is left over (R57). -/
theorem decodeBytes_lanes {w : BusWord} {i : Instr} (h : decode w = .ok i) (rest : List Byte) :
    decodeBytes (byteLane w 0 :: byteLane w 1 :: byteLane w 2 :: byteLane w 3 :: rest) = some (i, rest) := by
  simp only [decodeBytes, wordOfLanes_byteLane, h]

/-- The fields of every command's word, from the family's one lemma per command (R70, R74). -/
theorem fields_encode {i : Instr} (h : i.wellFormed = true) :
    fieldZ1 (encode i) = 0 ∧ fieldZ0 (encode i) = 0 ∧ (fieldOp (encode i)).toNat = opcodeOf i ∧
      (opcodeOf i ≠ 7 → fieldRounds (encode i) = 0) := by
  cases i with
  | modmul => exact Laws.Fields.modmul h
  | modpow => exact Laws.Fields.modpow h
  | gcd => exact Laws.Fields.gcd h
  | eeinv => exact Laws.Fields.eeinv h
  | hasinv => exact Laws.Fields.hasinv h
  | mrwit => exact Laws.Fields.mrwit h
  | mrmulti rounds => exact Laws.Fields.mrmulti rounds h

/-- The field `ROUNDS` of an MRMULTI holds its argument, unscaled (R72). -/
theorem fieldRounds_encode_mrmulti {rounds : Nat} (h : (Instr.mrmulti rounds).wellFormed = true) :
    (fieldRounds (encode (.mrmulti rounds))).toNat = rounds := by
  have hlt : rounds < 256 := by simpa [Instr.wellFormed] using h
  rw [fieldRounds_toNat]
  simp only [encode, BitVec.toNat_ofNat]
  omega

/-- The decoder reads back the word the encoder writes (R70, R72, R75). -/
theorem decode_encode {i : Instr} (h : i.wellFormed = true) : decode (encode i) = .ok i := by
  obtain ⟨hz1, hz0, hop, hr⟩ := fields_encode h
  have hseven : fieldOp (encode i) ≠ 7 → opcodeOf i ≠ 7 := fun hne heq =>
    hne (BitVec.eq_of_toNat_eq (hop.trans heq))
  refine decode_eq_ok.2 ⟨hz1, hz0, fun hne => hr (hseven hne), commandOfOp_eq_some.2 ⟨hop, ?_⟩⟩
  rintro rounds rfl
  exact (fieldRounds_encode_mrmulti h).symm

/-- Settles O2: from the word by its fields, from the bytes because the lanes make the word. -/
theorem decodeEncode : Obligations.DecodeEncode := fun _ h =>
  ⟨decode_encode h, decodeBytes_lanes (decode_encode h)⟩

end Sys2Proof
end

section
/-! The outcome of a completed command is a function of its latches and of the words it draws (R62, R218): the units read
nothing else of the state, and a multi-base test reads the random stream from its cursor on only. -/
namespace Sys2Proof.Machine
open Sys2Proof.Safety

/-- Two multi-base tests that have drawn the same bases and have the same words before them, each from its own cursor,
answer alike after the same number of words (R136). -/
theorem multiLoop_congr_stream (n : Nat) {rho rho' : Nat → Nat} : ∀ (left : Nat) (m m' : Multi), m.used = m'.used →
    (∀ k, rho (m.cursor + k) = rho' (m'.cursor + k)) →
    (multiLoop left n rho m).answer = (multiLoop left n rho' m').answer ∧
      ∃ d, (multiLoop left n rho m).cursor = m.cursor + d ∧ (multiLoop left n rho' m').cursor = m'.cursor + d
  | 0, _, _, _, _ => ⟨rfl, 0, rfl, rfl⟩
  | left + 1, m, m', hused, hrho => by
    have hbase : drawBase n m.used (rho m.cursor) = drawBase n m'.used (rho' m'.cursor) := by
      rw [hused]; exact congrArg _ (hrho 0)
    unfold multiLoop
    dsimp only
    rw [hbase]
    split
    · exact ⟨rfl, 1, rfl, rfl⟩
    · have hnext : ∀ k, rho (m.cursor + 1 + k) = rho' (m'.cursor + 1 + k) := fun k => by
        rw [Nat.add_assoc, Nat.add_assoc]; exact hrho (1 + k)
      obtain ⟨hans, d, hd, hd'⟩ := multiLoop_congr_stream n left
        { m with
          j := m.j + 1, used := m.used ++ [drawBase n m'.used (rho' m'.cursor)], cursor := m.cursor + 1,
          work := storeTrial (trial n (drawBase n m'.used (rho' m'.cursor))) m.work }
        { m' with
          j := m'.j + 1, used := m'.used ++ [drawBase n m'.used (rho' m'.cursor)], cursor := m'.cursor + 1,
          work := storeTrial (trial n (drawBase n m'.used (rho' m'.cursor))) m'.work }
        (by simp only [hused]) hnext
      exact ⟨hans, 1 + d, by rw [hd, Nat.add_assoc], by rw [hd', Nat.add_assoc]⟩

/-- What a unit delivers, and how many words it draws, from states with the same latches and the same words before them
(R62, R218). -/
theorem unitOf_congr_latches (i : Instr) {s t : State} (h : SameCommand s t) :
    (unitOf i s).r0 = (unitOf i t).r0 ∧ (unitOf i s).r1 = (unitOf i t).r1 ∧ (unitOf i s).err = (unitOf i t).err ∧
      ∃ d, (unitOf i s).cursor = s.cursor + d ∧ (unitOf i t).cursor = t.cursor + d := by
  obtain ⟨-, hrnds, hA, hB, hN, hrho⟩ := h
  cases i with
  | modmul => simp [unitOf, modmulUnit, plainResult, hA, hB, hN]
  | modpow => simp [unitOf, modpowUnit, plainResult, hA, hB, hN]
  | gcd => simp [unitOf, gcdUnit, plainResult, gcdRun_r0, hA, hB]
  | eeinv =>
    have hx := extRun_x0_congr t.opA t.opN s.work.euclid.q t.work.euclid.q
    simp [unitOf, eeinvUnit, extRun_r0, hA, hN, hx]
  | hasinv => simp [unitOf, hasinvUnit, plainResult, extRun_r0, hA, hN]
  | mrwit => simp [unitOf, mrwitUnit, plainResult, hA, hN]
  | mrmulti rounds =>
    simp only [unitOf, mrmultiUnit, mrMulti, hN, hrnds, true_and]
    obtain ⟨hans, hcur⟩ := multiLoop_congr_stream t.opN (effectiveRounds t.opN t.rnds.toNat)
      { answer := 1, j := 0, used := [], cursor := s.cursor, work := s.work }
      { answer := 1, j := 0, used := [], cursor := t.cursor, work := t.work } rfl hrho
    exact ⟨hans, hcur⟩

/-- A busy state's command that ends with `BUSY = 0` was completed by its unit (R42, R45). -/
theorem exec_completed {i : Instr} {s s' : State} (h : exec i s = .next s') (hb : s.status.busy = true)
    (hb' : s'.status.busy = false) : s' = complete (unitOf i s) s := by
  rcases exec_cases h with ⟨_, _, rfl⟩ | ⟨hidle, _⟩ | ⟨_, _, hc⟩
  · rw [advance_status, hb] at hb'; cases hb'
  · rw [hb] at hidle; cases hidle
  · exact hc

/-- Settles O58: both runs are completions, by units that deliver the same. -/
theorem outcomeDependsOnLatches : Obligations.OutcomeDependsOnLatches := by
  intro i s t s' t' hsame hbs hbt hs ht hbs' hbt'
  rw [exec_completed hs hbs hbs', exec_completed ht hbt hbt']
  exact unitOf_congr_latches i hsame

end Sys2Proof.Machine
end

section
/-! The register window (R51 to R56): bus errors, the address map, limbs and reserved locations, and what the host
scripts of R65 and R78 load. A served access is the step's equation for its location. -/
namespace Sys2Proof.Machine
open Sys2Proof.Safety

/-- Settles O12: the access is in the window and not the legal one. -/
theorem busError : Obligations.BusError := by
  intro s a off h hoff hbad
  have hillegal : ¬legalAccess (accessSize a) off = true := by rw [legalAccess_iff]; omega
  have hturn : nextTurn s = windowTurn off a s := (nextTurn_access h.2).trans (accessTurn_window h.1 hoff)
  exact step_settled (hturn.trans (if_neg hillegal))

/-! ### The address map -/

/-- The gap between the control registers and the data registers (R53). -/
theorem locate_low {off : Nat} (limbs : Nat) (h : 0x010 ≤ off) (h' : off ≤ 0x0FC) : locate limbs off = .reserved := by
  unfold locate
  rw [if_neg, if_neg, if_neg, if_neg, if_pos] <;> omega

/-- The rest of the window, above the data registers (R53). -/
theorem locate_high {off : Nat} (limbs : Nat) (h : 0x600 ≤ off) : locate limbs off = .reserved := by
  unfold locate
  rw [if_neg, if_neg, if_neg, if_neg, if_neg, if_neg, if_neg, if_neg, if_neg, if_neg] <;> omega

theorem locate_limb_below {limbs i : Nat} (hl : limbs ≤ 64) (r : DataReg) (hi : i < limbs) :
    locate limbs (limbBase r + 4 * i) = .limb r i :=
  (locate_limb limbs r (by omega)).trans (if_pos hi)

theorem locate_limb_above {limbs i : Nat} (r : DataReg) (hi : limbs ≤ i) (hi' : i < 64) :
    locate limbs (limbBase r + 4 * i) = .reserved :=
  (locate_limb limbs r hi').trans (if_neg (by omega))

/-- Settles O13: the control registers, the two gaps, and one data register after the other. -/
theorem addressMap : Obligations.AddressMap := fun limbs hl =>
  ⟨rfl, rfl, rfl, rfl, fun _ _ => locate_low limbs,
    fun _ hi => ⟨locate_limb_below hl .a hi, locate_limb_below hl .b hi, locate_limb_below hl .n hi,
      locate_limb_below hl .r0 hi, locate_limb_below hl .r1 hi⟩,
    fun _ _ h _ => locate_high limbs h⟩

/-- The offset of a limb is one the port serves, and not that of `CMD` (R52, R53). -/
theorem limbOffset_bounds (r : DataReg) {i : Nat} (hi : i < 64) :
    limbBase r + 4 * i < 4096 ∧ (limbBase r + 4 * i) % 4 = 0 ∧ limbBase r + 4 * i ≠ 0 := by
  cases r <;> simp only [limbBase] <;> omega

/-- Legal parameters have 1 to 64 limbs (R6). -/
theorem limbs_of_wellFormed {p : Params} (h : p.wellFormed = true) : 1 ≤ p.limbs ∧ p.limbs ≤ 64 := by
  simp only [Params.wellFormed, Bool.and_eq_true, decide_eq_true_eq] at h
  exact h.1

/-! ### Limbs -/

@[simp] theorem advance_dataReg (s : State) (r : DataReg) : (advance s).dataReg r = s.dataReg r := by
  cases r <;> rfl

/-- The state with an operand register holding `x`; a result register takes nothing (R54, R55). -/
def State.withOperand (s : State) (r : DataReg) (x : Nat) : State :=
  match r with
  | .a => { s with regA := x }
  | .b => { s with regB := x }
  | .n => { s with regN := x }
  | .r0 => s
  | .r1 => s

theorem writeLimb_eq_withOperand (r : DataReg) (i : Nat) (v : BusWord) (s : State) :
    writeLimb r i v s = s.withOperand r (withLimb (s.dataReg r) i v) := by
  cases r <;> rfl

/-- Only operand registers may differ. -/
theorem withOperand_frame (s : State) (r : DataReg) (x : Nat) :
    s.withOperand r x =
      { s with regA := (s.withOperand r x).regA, regB := (s.withOperand r x).regB, regN := (s.withOperand r x).regN } := by
  cases r <;> rfl

@[simp] theorem withOperand_params (s : State) (r : DataReg) (x : Nat) : (s.withOperand r x).params = s.params := by
  cases r <;> rfl

@[simp] theorem withOperand_rstLine (s : State) (r : DataReg) (x : Nat) : (s.withOperand r x).rstLine = s.rstLine := by
  cases r <;> rfl

@[simp] theorem withOperand_agenda (s : State) (r : DataReg) (x : Nat) : (s.withOperand r x).agenda = s.agenda := by
  cases r <;> rfl

@[simp] theorem withOperand_port (s : State) (r : DataReg) (x : Nat) : (s.withOperand r x).port = s.port := by
  cases r <;> rfl

theorem withOperand_self (s : State) (r : DataReg) : s.withOperand r (s.dataReg r) = s := by
  cases r <;> rfl

/-- Of two values given to one register the later one stays, whatever turn and answer come between. -/
theorem withOperand_withOperand (s : State) (r : DataReg) (x y : Nat) (ag : List Event) (p : PortAnswer) :
    ({ s.withOperand r x with agenda := ag, port := p } : State).withOperand r y =
      ({ s with agenda := ag, port := p } : State).withOperand r y := by
  cases r <;> rfl

theorem dataReg_withOperand_same {r : DataReg} (h : r = .a ∨ r = .b ∨ r = .n) (s : State) (x : Nat) :
    (s.withOperand r x).dataReg r = x := by
  rcases h with rfl | rfl | rfl <;> rfl

theorem dataReg_withOperand_other {r r' : DataReg} (h : r' ≠ r) (s : State) (x : Nat) :
    (s.withOperand r x).dataReg r' = s.dataReg r' := by
  cases r with
  | a | b | n => cases r' <;> simp_all [State.withOperand, State.dataReg]
  | r0 | r1 => rfl

/-- The served write of a limb the machine has (R54, R55). -/
theorem step_writeLimb {s : State} {r : DataReg} {i : Nat} {v : BusWord} (hp : s.params.wellFormed = true)
    (hi : i < s.params.limbs) (h : HostTurn s (writeAt s.params (limbBase r + 4 * i) v)) :
    step s = .next (({ s with agenda := s.agenda.tail, port := .written } : State).withOperand r
      (withLimb (s.dataReg r) i v)) := by
  have hl := (limbs_of_wellFormed hp).2
  obtain ⟨hw, ha, h0⟩ := limbOffset_bounds r (hi.trans_le hl)
  rw [step_write h hw ha h0, locate_limb_below hl r hi, hostWrite, writeLimb_eq_withOperand]
  cases r <;> rfl

/-- The served read of a limb the machine has, but for a result limb while busy (R54, R55). -/
theorem step_readLimb {s : State} {r : DataReg} {i : Nat} (hp : s.params.wellFormed = true)
    (hi : i < s.params.limbs) (h : HostTurn s (readAt s.params (limbBase r + 4 * i)))
    (hv : isResultLimb (.limb r i) = false ∨ s.status.busy = false) :
    step s = .next { s with agenda := s.agenda.tail, port := .data (limbOf (s.dataReg r) i) } := by
  have hl := (limbs_of_wellFormed hp).2
  obtain ⟨hw, ha, -⟩ := limbOffset_bounds r (hi.trans_le hl)
  rw [step_read h hw ha, locate_limb_below hl r hi]
  rcases hostRead_cases (.limb r i) (advance s) with ⟨hres, hbusy, _⟩ | ⟨_, he⟩
  · rw [advance_status] at hbusy
    simp [hres, hbusy] at hv
  · rw [he, readLocation, advance_dataReg]; rfl

/-- The served read of a result limb while busy takes the next free value (R55, R215). -/
theorem step_readLimb_busy {s : State} {r : DataReg} {i : Nat} (hp : s.params.wellFormed = true)
    (hi : i < s.params.limbs) (h : HostTurn s (readAt s.params (limbBase r + 4 * i)))
    (hr : isResultLimb (.limb r i) = true) (hb : s.status.busy = true) :
    step s = .next { s with
      agenda := s.agenda.tail, port := .data (Config.busyRead s.draws), draws := s.draws + 1 } := by
  have hl := (limbs_of_wellFormed hp).2
  obtain ⟨hw, ha, -⟩ := limbOffset_bounds r (hi.trans_le hl)
  rw [step_read h hw ha, locate_limb_below hl r hi]
  rcases hostRead_cases (.limb r i) (advance s) with ⟨_, _, he⟩ | ⟨hv, _⟩
  · rw [he]; rfl
  · simp [hr, hb] at hv

theorem isResultLimb_operand {r : DataReg} (h : r = .a ∨ r = .b ∨ r = .n) (i : Nat) :
    isResultLimb (.limb r i) = false := by
  rcases h with rfl | rfl | rfl <;> rfl

/-- Settles O14: the write replaces one limb of one register. -/
theorem operandLimbs : Obligations.OperandLimbs := by
  intro s r i hp hr hi
  refine ⟨fun v h => ⟨_, step_writeLimb hp hi h, ?_, fun k hk => ?_, fun r' hr' => ?_, withOperand_frame _ _ _⟩,
    fun h => step_readLimb hp hi h (.inl (isResultLimb_operand hr i))⟩
  · rw [dataReg_withOperand_same hr, limbOf_withLimb_same]
  · rw [dataReg_withOperand_same hr, limbOf_withLimb_other v hk]
  · rw [dataReg_withOperand_other hr']; cases r' <;> rfl

/-- Settles O15: a result register takes no write, and its read is by `BUSY`. -/
theorem resultLimbs : Obligations.ResultLimbs := by
  intro s r i hp hr hi
  have hres : isResultLimb (.limb r i) = true := by rcases hr with rfl | rfl <;> rfl
  refine ⟨fun v h => ?_, fun h hb => step_readLimb hp hi h (.inr hb), fun h hb => step_readLimb_busy hp hi h hres hb⟩
  rw [step_writeLimb hp hi h]
  rcases hr with rfl | rfl <;> rfl

/-! ### Reserved locations and bits -/

/-- A bit at a place past the word's number is 0. -/
theorem getLsbD_eq_false_of_lt {w : BusWord} {k m : Nat} (h : w.toNat < 2 ^ m) (hk : m ≤ k) : w.getLsbD k = false :=
  Nat.testBit_lt_two_pow (h.trans_le (Nat.pow_le_pow_right (by decide) hk))

/-- A served read of a reserved offset answers 0 (R56). -/
theorem step_read_reserved {s : State} {off : Nat} (hl : locate s.params.limbs off = .reserved) (hw : off < 4096)
    (ha : off % 4 = 0) (h : HostTurn s (readAt s.params off)) :
    step s = .next { s with agenda := s.agenda.tail, port := .data 0x00000000#32 } :=
  step_read_control h hw ha hl rfl

/-- A served write to a reserved offset is ignored (R56). -/
theorem step_write_reserved {s : State} {off : Nat} {v : BusWord} (hl : locate s.params.limbs off = .reserved)
    (hw : off < 4096) (ha : off % 4 = 0) (h : HostTurn s (writeAt s.params off v)) :
    step s = .next { s with agenda := s.agenda.tail, port := .written } := by
  have h0 : off ≠ 0 := by rintro rfl; cases hl
  rw [step_write h hw ha h0, hl]
  rfl

/-- The reserved offsets of R56: the two gaps of the map and the limbs that the machine lacks. -/
theorem locate_reserved {limbs off : Nat}
    (h : (0x010 ≤ off ∧ off ≤ 0x0FC) ∨ (0x600 ≤ off ∧ off ≤ 0xFFC) ∨
      (∃ (r : DataReg) (i : Nat), limbs ≤ i ∧ i < 64 ∧ off = limbBase r + 4 * i)) :
    locate limbs off = .reserved ∧ off < 4096 := by
  rcases h with ⟨h1, h2⟩ | ⟨h1, h2⟩ | ⟨r, i, hi, hi', rfl⟩
  · exact ⟨locate_low limbs h1 h2, by omega⟩
  · exact ⟨locate_high limbs h1, by omega⟩
  · exact ⟨locate_limb_above r hi hi', (limbOffset_bounds r hi').1⟩

/-- `STATUS` takes nothing but its two clear bits (R29, R56). -/
theorem writeStatus_mask (v : BusWord) (s : State) : writeStatus v s = writeStatus (v &&& 0x00000006#32) s := by
  have h1 : (v &&& 0x00000006#32).getLsbD 1 = v.getLsbD 1 := by simp
  have h2 : (v &&& 0x00000006#32).getLsbD 2 = v.getLsbD 2 := by simp
  rw [writeStatus, writeStatus, clearFlags_eq, clearFlags_eq, h1, h2]

/-- `CTRL` takes nothing but `IE` and `SRST` (R34, R56). -/
theorem writeCtrl_mask (v : BusWord) (s : State) : writeCtrl v s = writeCtrl (v &&& 0x00000003#32) s := by
  have h0 : (v &&& 0x00000003#32).getLsbD 0 = v.getLsbD 0 := by simp
  have h1 : (v &&& 0x00000003#32).getLsbD 1 = v.getLsbD 1 := by simp
  rw [writeCtrl, writeCtrl, h0, h1]

/-- The reserved bits of `STATUS` read 0 (R29, R56). -/
theorem statusWord_reserved (st : Status) :
    (statusWord st).getLsbD 3 = false ∧ ∀ k, 8 ≤ k → (statusWord st).getLsbD k = false := by
  obtain ⟨-, -, -, h3, -, hhigh⟩ := status_fields st.busy st.done st.ovr (errBits st.err)
  have hlt : (statusWord st).toNat < 2 ^ 8 := (Nat.div_eq_zero_iff_lt (by decide)).1 hhigh
  exact ⟨h3, fun _ hk => getLsbD_eq_false_of_lt hlt hk⟩

/-- Settles O16: reserved locations by the map, reserved bits by the words read and the bits a write uses. -/
theorem reservedLocations : Obligations.ReservedLocations := by
  refine ⟨fun s off _ ha hoff => ?_, fun s k hp hk => ?_, statusWord_reserved, fun c k hk => ?_,
    fun v s => ⟨writeStatus_mask v s, writeCtrl_mask v s⟩⟩
  · obtain ⟨hl, hw⟩ := locate_reserved hoff
    exact ⟨step_read_reserved hl hw ha, fun _ => step_write_reserved hl hw ha⟩
  · obtain ⟨hcap, hl⟩ := cap_toNat hp
    exact getLsbD_eq_false_of_lt (m := 8) (by omega) hk
  · have hlt : (ctrlWord c).toNat < 2 ^ 1 := by rw [ctrlWord_eq]; split <;> decide
    exact getLsbD_eq_false_of_lt hlt hk

/-! ### Loading a register limb by limb -/

/-- `x` with its lowest `k` limbs taken from `v`. -/
def withLowLimbs (x v k : Nat) : Nat := x / 2 ^ (32 * k) * 2 ^ (32 * k) + v % 2 ^ (32 * k)

theorem withLowLimbs_zero (x v : Nat) : withLowLimbs x v 0 = x := by
  simp [withLowLimbs, Nat.mod_one]

/-- When the limbs cover the register, nothing of what it held is left. -/
theorem withLowLimbs_full {x v limbs : Nat} (hx : x < 2 ^ (32 * limbs)) (hv : v < 2 ^ (32 * limbs)) :
    withLowLimbs x v limbs = v := by
  rw [withLowLimbs, Nat.div_eq_of_lt hx, Nat.mod_eq_of_lt hv, Nat.zero_mul, Nat.zero_add]

/-- Writing limb `k` of `v` over a value whose lower limbs are those of `v` (R54). -/
theorem withLimb_withLowLimbs (x v k : Nat) :
    withLimb (withLowLimbs x v k) k (limbOf v k) = withLowLimbs x v (k + 1) := by
  have hpos : 0 < 2 ^ (32 * k) := Nat.two_pow_pos _
  have hlt : v % 2 ^ (32 * k) < 2 ^ (32 * k) := Nat.mod_lt _ hpos
  have hpow : 2 ^ (32 * (k + 1)) = 2 ^ (32 * k) * 2 ^ 32 := by rw [Nat.mul_succ, pow_add]
  have hlow : withLowLimbs x v k % 2 ^ (32 * k) = v % 2 ^ (32 * k) := by
    rw [withLowLimbs, Nat.mul_comm, Nat.mul_add_mod, Nat.mod_mod]
  have hdiv : withLowLimbs x v k / 2 ^ (32 * k) = x / 2 ^ (32 * k) := by
    rw [withLowLimbs, Nat.mul_comm, Nat.mul_add_div hpos, Nat.div_eq_of_lt hlt, Nat.add_zero]
  have hhigh : withLowLimbs x v k / 2 ^ (32 * (k + 1)) = x / 2 ^ (32 * (k + 1)) := by
    rw [hpow, ← Nat.div_div_eq_div_mul, hdiv, Nat.div_div_eq_div_mul]
  rw [withLimb, hlow, hhigh, limbOf_toNat, withLowLimbs, hpow, Nat.mod_mul]
  ring

/-- The turns that write limbs `k` to `k + count - 1` of `v` (R78). -/
def limbWrites (p : Params) (r : DataReg) (v k count : Nat) : List Event :=
  (List.range' k count).map fun i => .access (writeAt p (limbBase r + 4 * i) (limbOf v i))

theorem scriptWr_eq_limbWrites (p : Params) (r : DataReg) (v : Nat) : scriptWr p r v = limbWrites p r v 0 p.limbs := by
  rw [scriptWr, limbWrites, List.range_eq_range']

/-- A run whose first step goes on is the run from there. -/
theorem run_succ {M : Host.Core} {s t : M.State} (h : M.step s = .next t) (count : Nat) :
    M.run (count + 1) s = M.run count t := by
  simp only [Host.Core.run, h]

/-- Over a register whose limbs below `k` are those of `v`, the writes of the next `count` limbs of `v` (R54, R78). -/
theorem run_limbWrites {r : DataReg} (hr : r = .a ∨ r = .b ∨ r = .n) (x v : Nat) (rest : List Event) :
    ∀ (count k : Nat) (s : State), s.params.wellFormed = true → s.rstLine = false → k + count ≤ s.params.limbs →
      s.dataReg r = withLowLimbs x v k → s.agenda = limbWrites s.params r v k count ++ rest →
      Sys2Proof.core.run count s = .next
        (({ s with agenda := rest, port := if count = 0 then s.port else .written } : State).withOperand r
          (withLowLimbs x v (k + count)))
  | 0, k, s, _, _, _, hreg, hag => by
    have hrest : rest = s.agenda := hag.symm
    rw [if_pos rfl, Nat.add_zero, ← hreg, hrest]
    exact congrArg Host.Outcome.next (withOperand_self s r).symm
  | count + 1, k, s, hp, hrst, hk, hreg, hag => by
    have hturn : HostTurn s (writeAt s.params (limbBase r + 4 * k) (limbOf v k)) := ⟨hrst, by rw [hag]; rfl⟩
    have hstep := step_writeLimb hp (by omega) hturn
    rw [hreg, withLimb_withLowLimbs] at hstep
    rw [run_succ (M := Sys2Proof.core) hstep, run_limbWrites hr x v rest count (k + 1), withOperand_withOperand,
      withOperand_port, ite_self, if_neg (Nat.succ_ne_zero count), Nat.add_assoc, Nat.add_comm 1 count]
    · rwa [withOperand_params]
    · rwa [withOperand_rstLine]
    · rw [withOperand_params]
      show k + 1 + count ≤ s.params.limbs
      omega
    · exact dataReg_withOperand_same hr _ _
    · rw [withOperand_agenda, withOperand_params]
      show s.agenda.tail = _
      rw [hag]; rfl

/-- Settles O22: the writes leave no limb of what the register held. -/
theorem loadOperand : Obligations.LoadOperand := by
  intro s r v rest hp hrst hr hv hx hag
  rw [scriptWr_eq_limbWrites] at hag
  have hpos : s.params.limbs ≠ 0 := Nat.one_le_iff_ne_zero.1 (limbs_of_wellFormed hp).1
  have hrun := run_limbWrites hr (s.dataReg r) v rest s.params.limbs 0 s hp hrst (Nat.zero_add _).le
    (withLowLimbs_zero _ v).symm hag
  rw [if_neg hpos, Nat.zero_add, withLowLimbs_full hx hv] at hrun
  refine ⟨_, hrun, dataReg_withOperand_same hr _ v, fun r' hr' => ?_, withOperand_frame _ r v⟩
  rw [dataReg_withOperand_other hr']
  cases r' <;> rfl

/-- The limbs of R65's value. -/
theorem limbOf_workedExample : ∀ i, i < 8 →
    limbOf (2 ^ 64 + 5) i = if i = 0 then 0x00000005#32 else if i = 2 then 0x00000001#32 else 0x00000000#32 := by
  decide

/-- Settles O23: R65's accesses are the writes of the low limbs of 3233 and of `2 ^ 64 + 5`, and the reads of its limbs. -/
theorem workedExample : Obligations.WorkedExample := by
  refine ⟨?_, ?_, fun i hi => ?_⟩
  · exact run_limbWrites (.inr (.inr rfl)) 0 3233 [] 1 0
      { State.reset with agenda := limbWrites State.reset.params .n 3233 0 1 } rfl rfl (by decide) rfl rfl
  · exact run_limbWrites (.inl rfl) 0 (2 ^ 64 + 5) [] 3 0
      { State.reset with agenda := limbWrites State.reset.params .a (2 ^ 64 + 5) 0 3 } rfl rfl (by decide) rfl rfl
  · rw [← limbOf_workedExample i hi]
    exact step_readLimb (s := { State.reset with
      regA := 2 ^ 64 + 5, agenda := [.access (readAt State.reset.params (limbBase .a + 4 * i))] }) (r := .a)
      rfl hi ⟨rfl, rfl⟩ (.inl rfl)

end Sys2Proof.Machine
end

section
/-! The legal words: the decoder against the encoder (R70, R74), the count of the legal words (R74), the rows of the opcode
map (R75), the field `ROUNDS` (R72) and the example words (R80). -/
namespace Sys2Proof
open Sys2Proof.Machine

/-- The decoder's commands are well formed: `ROUNDS` is a byte (R72). -/
theorem wellFormed_of_decode {w : BusWord} {i : Instr} (h : decode w = .ok i) : i.wellFormed = true := by
  obtain ⟨-, -, -, hm⟩ := toNat_of_decode h
  cases i with
  | mrmulti rounds =>
    have hr := hm rounds rfl
    simp only [Instr.wellFormed, decide_eq_true_eq]
    omega
  | _ => rfl

/-- The decoder is the encoder read backwards, on the well-formed commands. -/
theorem decode_eq_ok_iff_encode {w : BusWord} {i : Instr} :
    decode w = .ok i ↔ i.wellFormed = true ∧ encode i = w :=
  ⟨fun h => ⟨wellFormed_of_decode h, encode_of_decode h⟩, fun ⟨hi, hw⟩ => hw ▸ decode_encode hi⟩

/-- Settles O3: `ROUNDS` is a byte, and the encoder writes back the word that was decoded. -/
theorem encodeDecode : Obligations.EncodeDecode := fun _ _ h => decode_eq_ok_iff_encode.1 h

/-! ### The 262 legal words -/

/-- `legalWord` as the field conditions of R74. -/
theorem legalWord_iff_fields (w : BusWord) : legalWord w = true ↔
    w.toNat / 65536 = 0 ∧ w.toNat / 16 % 16 = 0 ∧ 1 ≤ w.toNat % 16 ∧ w.toNat % 16 ≤ 7 ∧
      (w.toNat % 16 = 7 ∨ w.toNat / 256 % 256 = 0) := by
  simp only [legalWord, Bool.and_eq_true, Bool.or_eq_true, decide_eq_true_eq, and_assoc]

/-- The field conditions of R74 leave the words 1 to 6 and `0x0000RR07`. -/
theorem legalWord_iff_values (w : BusWord) : legalWord w = true ↔
    (1 ≤ w.toNat ∧ w.toNat ≤ 6) ∨ ∃ rr, rr ≤ 255 ∧ w.toNat = rr * 256 + 7 := by
  rw [legalWord_iff_fields]
  constructor
  · rintro ⟨hz1, hz0, hlow, hhigh, hrounds⟩
    by_cases hop : w.toNat % 16 = 7
    · exact .inr ⟨w.toNat / 256, by omega, by omega⟩
    · exact .inl (by omega)
  · rintro (hfixed | ⟨rr, hrr, hw⟩) <;> omega

/-- The commands that have a word: the six without an argument and MRMULTI with each number of rounds (R72, R75). -/
def wellFormedCommands : List Instr :=
  [.modmul, .modpow, .gcd, .eeinv, .hasinv, .mrwit] ++ (List.range 256).map .mrmulti

theorem mem_wellFormedCommands {i : Instr} : i ∈ wellFormedCommands ↔ i.wellFormed = true := by
  cases i <;> simp [wellFormedCommands, Instr.wellFormed]

theorem wellFormedCommands_nodup : wellFormedCommands.Nodup := by
  refine List.nodup_append.2 ⟨by decide, List.nodup_range.map fun _ _ h => Instr.mrmulti.inj h, ?_⟩
  intro i hi j hj hij
  obtain ⟨rounds, -, rfl⟩ := List.mem_map.1 hj
  simp [hij] at hi

theorem wellFormedCommands_length : wellFormedCommands.length = 262 := by
  simp [wellFormedCommands]

/-- Different well-formed commands have different words (R70). -/
theorem encode_injOn {i j : Instr} (hi : i.wellFormed = true) (hj : j.wellFormed = true) (h : encode i = encode j) :
    i = j :=
  Except.ok.inj ((decode_encode hi).symm.trans (h ▸ decode_encode hj))

/-- The words of the well-formed commands are the words that decode (R74). -/
theorem mem_map_encode {w : BusWord} : w ∈ wellFormedCommands.map encode ↔ ∃ i, decode w = .ok i := by
  simp only [List.mem_map, mem_wellFormedCommands, decode_eq_ok_iff_encode]

/-- Settles O4: the decoder accepts what `legalWord` does, and the legal words are the words of the 262 commands. -/
theorem legalWords : Obligations.LegalWords := by
  refine ⟨fun w => (legalWord_iff w).symm.trans (legalWord_iff_fields w),
    fun w => (legalWord_iff w).symm.trans (legalWord_iff_values w), wellFormedCommands.map encode, ?_, ?_,
    fun _ => mem_map_encode⟩
  · exact wellFormedCommands_nodup.map_on fun i hi j hj =>
      encode_injOn (mem_wellFormedCommands.1 hi) (mem_wellFormedCommands.1 hj)
  · rw [List.length_map, wellFormedCommands_length]

/-! ### The rows of the opcode map -/

/-- A word is its four fields (R70). -/
theorem word_eq_iff_fields {w v : BusWord} :
    w = v ↔ fieldZ1 w = fieldZ1 v ∧ fieldRounds w = fieldRounds v ∧ fieldZ0 w = fieldZ0 v ∧ fieldOp w = fieldOp v := by
  refine ⟨fun h => h ▸ ⟨rfl, rfl, rfl, rfl⟩, fun h => BitVec.eq_of_toNat_eq ?_⟩
  simp only [← BitVec.toNat_inj, fieldZ1_toNat, fieldRounds_toNat, fieldZ0_toNat, fieldOp_toNat] at h
  omega

/-- The mask of a row without an argument keeps the whole word: such a row is one word (R75). -/
theorem decode_eq_ok_iff_match {w : BusWord} {i : Instr} (hi : i.wellFormed = true) :
    decode w = .ok i ↔ w &&& 0xFFFFFFFF#32 = encode i := by
  have hmask : w &&& 0xFFFFFFFF#32 = w := BitVec.and_allOnes
  rw [decode_eq_ok_iff_encode, hmask]
  exact ⟨fun h => h.2.symm, fun h => ⟨hi, h.symm⟩⟩

/-- A word is MRMULTI's when `OP` is 7 and no reserved bit is set, whatever `ROUNDS` is (R74). -/
theorem decode_mrmulti_iff_fields {w : BusWord} :
    (∃ rounds, decode w = .ok (.mrmulti rounds)) ↔ fieldZ1 w = 0 ∧ fieldZ0 w = 0 ∧ fieldOp w = 7 := by
  constructor
  · rintro ⟨rounds, h⟩
    obtain ⟨hz1, hz0, -, hc⟩ := decode_eq_ok.1 h
    exact ⟨hz1, hz0, BitVec.eq_of_toNat_eq (commandOfOp_eq_some.1 hc).1⟩
  · rintro ⟨hz1, hz0, hop⟩
    refine ⟨(fieldRounds w).toNat, decode_eq_ok.2 ⟨hz1, hz0, absurd hop, ?_⟩⟩
    rw [hop]; rfl

/-- MRMULTI's mask keeps every field but `ROUNDS`, which it clears, and its match is `OP = 7` alone (R75). -/
theorem mrmulti_match_iff_fields {w : BusWord} :
    w &&& 0xFFFF00FF#32 = 0x00000007#32 ↔ fieldZ1 w = 0 ∧ fieldZ0 w = 0 ∧ fieldOp w = 7 := by
  have hz1 : fieldZ1 (w &&& 0xFFFF00FF#32) = fieldZ1 w := BitVec.extractLsb'_and.trans BitVec.and_allOnes
  have hrounds : fieldRounds (w &&& 0xFFFF00FF#32) = 0 := BitVec.extractLsb'_and.trans BitVec.and_zero
  have hz0 : fieldZ0 (w &&& 0xFFFF00FF#32) = fieldZ0 w := BitVec.extractLsb'_and.trans BitVec.and_allOnes
  have hop : fieldOp (w &&& 0xFFFF00FF#32) = fieldOp w := BitVec.extractLsb'_and.trans BitVec.and_allOnes
  rw [word_eq_iff_fields, hz1, hrounds, hz0, hop]
  exact ⟨fun ⟨h1, _, h0, h7⟩ => ⟨h1, h0, h7⟩, fun ⟨h1, h0, h7⟩ => ⟨h1, rfl, h0, h7⟩⟩

/-- MRMULTI's row by its mask and match (R75). -/
theorem decode_mrmulti_iff_match {w : BusWord} :
    (∃ rounds, decode w = .ok (.mrmulti rounds)) ↔ w &&& 0xFFFF00FF#32 = 0x00000007#32 :=
  decode_mrmulti_iff_fields.trans mrmulti_match_iff_fields.symm

/-- Settles O5: six rows of one word each and MRMULTI's; a word that decodes is in its command's row. -/
theorem opcodeMap : Obligations.OpcodeMap := by
  intro w
  refine ⟨decode_eq_ok_iff_match rfl, decode_eq_ok_iff_match rfl, decode_eq_ok_iff_match rfl, decode_eq_ok_iff_match rfl,
    decode_eq_ok_iff_match rfl, decode_eq_ok_iff_match rfl, decode_mrmulti_iff_match, ?_⟩
  intro h1 h2 h3 h4 h5 h6 h7
  cases hd : decode w with
  | error e => exact ⟨e, rfl⟩
  | ok i =>
    have hw := encode_of_decode hd
    cases i with
    | modmul => exact absurd hw.symm h1
    | modpow => exact absurd hw.symm h2
    | gcd => exact absurd hw.symm h3
    | eeinv => exact absurd hw.symm h4
    | hasinv => exact absurd hw.symm h5
    | mrwit => exact absurd hw.symm h6
    | mrmulti rounds => exact absurd (decode_mrmulti_iff_match.1 ⟨rounds, hd⟩) h7

/-! ### `ROUNDS` -/

/-- An issue, refused for its modulus or not, latches the field `ROUNDS` of its word (R37, R43). -/
theorem issue_rnds (i : Instr) (s : State) : (issue i s).rnds = fieldRounds (encode i) := by
  rcases issue_cases i s with ⟨_, _, h⟩ | ⟨_, h⟩ <;> simp [h]

/-- Settles O6: the decoder takes `ROUNDS` from bits 15:8, and the issue latches the same field of the same word. -/
theorem roundsField : Obligations.RoundsField := by
  refine ⟨fun w rounds hd => ?_, fun s t w rounds hd hc hb ht => ?_, decode_encode (i := .mrmulti 0) rfl, fun _ _ => rfl⟩
  · obtain ⟨-, -, -, hm⟩ := toNat_of_decode hd
    exact hm rounds rfl
  · have hissue : step s = .next (issue (.mrmulti rounds) s) := (step_command_legal hc hb hd).trans (exec_idle hb)
    rw [step_unique ht hissue, issue_rnds]
    exact fieldRounds_encode_mrmulti (wellFormed_of_decode hd)

/-- Settles O1: the legal examples are words of the encoder, and each refused one fails the field named. -/
theorem decodeExamples : Obligations.DecodeExamples :=
  ⟨decode_encode (i := .modpow) rfl, decode_encode (i := .mrmulti 10) rfl, decode_encode (i := .mrmulti 0) rfl, rfl, rfl,
    rfl, rfl, decode_encode (i := .mrmulti 255) rfl, rfl⟩

end Sys2Proof
end

section
/-! The two phases of a command in the words of the command statements (R42, R43): an issue starts the command or refuses
it for its modulus, a completion ends it with what its unit delivers. MODMUL (R91) is these at its own word and unit. -/
namespace Sys2Proof.Machine
open Sys2Proof.Safety

/-- The field `OP` of a command's word is its row's operation code (R70, R75). -/
theorem fieldOp_encode {i : Instr} (h : i.wellFormed = true) : fieldOp (encode i) = BitVec.ofNat 4 (opcodeOf i) := by
  obtain ⟨-, -, hop, -⟩ := fields_encode h
  rw [← hop, BitVec.ofNat_toNat, BitVec.setWidth_eq]

/-- Issued while idle with a modulus it accepts, a command starts (R43, last branch). -/
theorem starts_of_idle {i : Instr} {s : State} (hi : i.wellFormed = true) (hb : s.status.busy = false)
    (hd : needsModulus i = true → 2 ≤ s.regN) : Starts i s := by
  rcases issue_cases i s with ⟨hm, hn, -⟩ | ⟨-, hissue⟩
  · exact absurd (hd hm) (by omega)
  · rw [Starts, exec_idle hb, hissue, ← fieldOp_encode hi]; rfl

/-- Issued while idle with a modulus below 2, a command that needs one is refused (R43, R182). -/
theorem refusesModulus_of_idle {i : Instr} {s : State} (hi : i.wellFormed = true) (hb : s.status.busy = false)
    (hm : needsModulus i = true) (hn : s.regN < 2) : RefusesModulus i s := by
  rcases issue_cases i s with ⟨-, -, hissue⟩ | ⟨hd, -⟩
  · rw [RefusesModulus, exec_idle hb, hissue, ← fieldOp_encode hi, ← hb]; rfl
  · exact absurd (hd hm) (by omega)

/-- Completed in its domain, a command that draws no random word ends with what its unit delivers (R42). -/
theorem endsWith_of_busy {i : Instr} {s : State} (hi : ∀ rounds, i ≠ .mrmulti rounds) (hb : s.status.busy = true)
    (hd : needsModulus i = true → 2 ≤ s.opN) :
    EndsWith i s (unitOf i s).r0 (unitOf i s).r1 (unitOf i s).err := by
  have hseven : opcodeOf i ≠ 7 := by
    cases i with
    | mrmulti rounds => exact absurd rfl (hi rounds)
    | _ => exact nofun
  refine ⟨(unitOf i s).work, ?_⟩
  rw [exec_busy hb hd fun h => absurd h hseven, complete, unitOf_cursor hi]; rfl

/-- Settles O33: issue and completion at MODMUL's word, the unit delivering the reduced product by definition (R90). -/
theorem modmul : Obligations.Modmul :=
  ⟨rfl, fun _ hb hn => refusesModulus_of_idle rfl hb rfl hn, fun _ hb hn => starts_of_idle rfl hb fun _ => hn,
    fun _ hb hn => endsWith_of_busy nofun hb fun _ => hn⟩

end Sys2Proof.Machine
end

section
/-! Modular exponentiation (R100 to R102): the loop of R101 computes the power modulo `n`, and MODPOW is the two phases of
a command at that loop. -/
namespace Sys2Proof.Machine
open Sys2Proof.Safety

/-- The loop invariant of R101 at its end, with `bitlen(e)` rounds enough to use up the exponent. -/
theorem modPow_modEq (a e n : Nat) : modPow a e n ≡ a ^ e [MOD n] := by
  have hacc : modPow a e n ≡ 1 * a ^ e [MOD n] := powLoop_acc_modEq (bitlen e) ⟨1, a, e⟩ (lt_two_pow_bitlen e)
  rwa [one_mul] at hacc

/-- The accumulator starts at 1, which `n ≥ 2` exceeds, and stays reduced. -/
theorem modPow_lt {n : Nat} (hn : 2 ≤ n) (a e : Nat) : modPow a e n < n :=
  powLoop_acc_lt (by omega) (bitlen e) ⟨1, a, e⟩ hn

/-- The binary method computes R100's function. -/
theorem modPow_eq {n : Nat} (hn : 2 ≤ n) (a e : Nat) : modPow a e n = a ^ e % n :=
  (Nat.mod_eq_of_modEq (modPow_modEq a e n).symm (modPow_lt hn a e)).symm

/-- Settles O42: the value by the loop invariant, so a reduced base gives the same power. -/
theorem modPowFunction : Obligations.ModPowFunction := fun a e n hn =>
  ⟨modPow_eq hn a e, modPow_lt hn a e, by rw [modPow_eq hn, modPow_eq hn, ← Nat.pow_mod]⟩

/-- Settles O34: issue and completion at MODPOW's word, the unit delivering the power the loop computes. -/
theorem modpow : Obligations.Modpow := by
  refine ⟨rfl, fun _ hb hn => refusesModulus_of_idle rfl hb rfl hn, fun _ hb hn => starts_of_idle rfl hb fun _ => hn,
    fun s hb hn => ?_⟩
  have hend : EndsWith .modpow s (modPow s.opA s.opB s.opN) 0 .none := endsWith_of_busy nofun hb fun _ => hn
  rwa [modPow_eq hn] at hend

end Sys2Proof.Machine
end

section
/-! The Euclidean unit (R110 to R117): the loop of R110 is the greatest common divisor, the loop of R113 over signed
integers gives a Bézout coefficient, the registers' reduced form of R114 follows it, and GCD, EEINV and HASINV are the two
phases of a command at these loops. -/
namespace Sys2Proof.Machine
open Sys2Proof.Safety

/-! ### The functions -/

/-- Settles O43: each clause is a fact of the greatest common divisor, which the loop ends with (R110). -/
theorem gcdFunction : Obligations.GcdFunction := by
  intro a b e
  simp only [gcdRun_r0]
  refine ⟨trivial, Nat.gcd_zero_right a, fun _ => ?_, Nat.gcd_zero_left b, Nat.gcd_comm a b⟩
  calc Nat.gcd a b = Nat.gcd b a := Nat.gcd_comm a b
    _ = Nat.gcd (a % b) b := Nat.gcd_rec b a
    _ = Nat.gcd b (a % b) := Nat.gcd_comm (a % b) b

/-- Settles O45: both loops start alike, 0 and 1 being reduced modulo `n ≥ 2`, and the reduced one follows the other. -/
theorem reducedForm : Obligations.ReducedForm := by
  intro b n q hn
  have h1 : ((1 : Nat) : Int) = 1 % (n : Int) := (Int.emod_eq_of_lt (by omega) (by omega)).symm
  exact extLoop_signed (by omega) n ⟨b, n, 1, 0, q⟩ 1 0 (by show 1 < n; omega) (by show 0 < n; omega) h1 rfl

/-- The signed loop starts at `b ≡ b · 1`, `n ≡ b · 0` and keeps both forms, so its coefficient is one of Bézout's (R113). -/
theorem extEuclidSigned_modEq (b n : Nat) :
    (b : Int) * (extEuclidSigned b n).2 ≡ (extEuclidSigned b n).1 [ZMOD n] := by
  have h0 : (b : Int) ≡ b * 1 [ZMOD n] := by rw [mul_one]
  have h1 : (n : Int) ≡ b * 0 [ZMOD n] := by rw [mul_zero]; exact Int.emod_self
  exact ((Int.mod_modEq _ _).mul_left _).trans (signedLoop_modEq n b n 1 0 h0 h1).symm

/-- Settles O44: the gcd by the reduced loop that follows the signed one, the bounds by the last reduction. -/
theorem extEuclidFunction : Obligations.ExtEuclidFunction := by
  intro b n hn
  have hgcd := (reducedForm b n 0 hn).1
  rw [extRun_r0] at hgcd
  exact ⟨hgcd.symm, Int.emod_nonneg _ (by omega), Int.emod_lt_of_pos _ (by omega), extEuclidSigned_modEq b n⟩

/-- The coefficient the registers end with is one of Bézout's modulo `n` (R115). -/
theorem extRun_bezout {b n q : Nat} (hn : 2 ≤ n) : b * (extRun b n q).x0 ≡ Nat.gcd b n [MOD n] := by
  obtain ⟨hr0, hx0⟩ := reducedForm b n q hn
  rw [← Int.natCast_modEq_iff, Nat.cast_mul, hx0, ← extRun_r0 b n q, hr0]
  exact extEuclidSigned_modEq b n

/-- With gcd 1, every inverse below `n` is the coefficient: the factor `b`, coprime to `n`, cancels (R115). -/
theorem eq_extRun_x0_of_inverse {b n q y : Nat} (hn : 2 ≤ n) (hc : Nat.gcd b n = 1) (hy : y < n)
    (h : b * y % n = 1) : y = (extRun b n q).x0 := by
  have hbez : b * (extRun b n q).x0 ≡ 1 [MOD n] := hc ▸ extRun_bezout hn
  have hinv : b * y ≡ 1 [MOD n] := h.trans (Nat.mod_eq_of_lt hn).symm
  have hcancel : y ≡ (extRun b n q).x0 [MOD n] :=
    (hinv.trans hbez.symm).cancel_left_of_coprime (by rwa [Nat.gcd_comm])
  exact hcancel.eq_of_lt_of_lt hy (extRun_x0_lt hn)

/-! ### The commands -/

/-- Settles O35: GCD needs no modulus, so it always starts, and its unit delivers the gcd. -/
theorem gcdCommand : Obligations.GcdCommand := by
  refine ⟨rfl, fun _ hb => starts_of_idle rfl hb nofun, fun s hb => ?_⟩
  have hend : EndsWith .gcd s (gcdRun s.opA s.opB s.work.euclid).r0 0 .none := endsWith_of_busy nofun hb nofun
  rwa [gcdRun_r0] at hend

/-- Settles O36: EEINV's unit delivers the gcd and the coefficient of the reduced loop, whatever the quotient register
held. -/
theorem eeinv : Obligations.Eeinv := by
  refine ⟨rfl, fun _ hb hn => refusesModulus_of_idle rfl hb rfl hn, fun _ hb hn => starts_of_idle rfl hb fun _ => hn,
    fun s hb hn => ?_⟩
  have hend : EndsWith .eeinv s (eeinvUnit s).r0 (eeinvUnit s).r1 (eeinvUnit s).err :=
    endsWith_of_busy nofun hb fun _ => hn
  simp only [eeinvUnit, extRun_r0] at hend
  exact ⟨_, hend, (reducedForm _ _ _ hn).2, extRun_x0_lt hn, extRun_bezout hn,
    fun hc _ hy hinv => eq_extRun_x0_of_inverse hn hc hy hinv⟩

/-- Settles O37: HASINV's unit runs EEINV's loop and delivers whether the gcd is 1. -/
theorem hasinv : Obligations.Hasinv := by
  refine ⟨rfl, fun _ hb hn => refusesModulus_of_idle rfl hb rfl hn, fun _ hb hn => starts_of_idle rfl hb fun _ => hn,
    fun s hb hn => ?_⟩
  have hend : EndsWith .hasinv s (if (extRun s.opA s.opN s.work.euclid.q).r0 = 1 then 1 else 0) 0 .none :=
    endsWith_of_busy nofun hb fun _ => hn
  rwa [extRun_r0] at hend

end Sys2Proof.Machine
end

section
/-! The single-base test (R130 to R133): `Decomp` is the one decomposition of `n − 1`, the test answers 0 exactly when one
of the powers R131 looks at is 1 or `n − 1`, and MRWIT is the two phases of a command at that test. The corner bases and
odd primes are read in `ZMod n`, where the residue `n − 1` is `-1`. -/
namespace Sys2Proof.Machine
open Sys2Proof.Safety

/-! ### The decomposition of `n − 1` -/

theorem decomp_spec {n : Nat} (hn : 2 ≤ n) :
    n - 1 = 2 ^ (decomp n).1 * (decomp n).2 ∧ (decomp n).2 % 2 = 1 := by
  obtain ⟨hdvd, hodd⟩ := trailingZeros_spec (bitlen (n - 1)) (n - 1) (by omega) (lt_two_pow_bitlen _)
  exact ⟨(Nat.mul_div_cancel' hdvd).symm, hodd⟩

/-- A power of two that divides `2 ^ k' * q'` with `q'` odd divides `2 ^ k'`. -/
theorem le_of_two_pow_mul_eq {k q k' q' : Nat} (h : 2 ^ k * q = 2 ^ k' * q') (hodd : q' % 2 = 1) : k ≤ k' := by
  have hcop : Nat.Coprime (2 ^ k) q' := (Nat.coprime_two_left.2 (Nat.odd_iff.2 hodd)).pow_left k
  exact (Nat.pow_dvd_pow_iff_le_right (by norm_num)).1 (hcop.dvd_of_dvd_mul_right (Dvd.intro q h))

/-- A number has one decomposition into a power of two and an odd part (R130: "the unique pair"). -/
theorem two_pow_mul_odd_inj {k q k' q' : Nat} (h : 2 ^ k * q = 2 ^ k' * q') (hq : q % 2 = 1) (hq' : q' % 2 = 1) :
    k = k' ∧ q = q' := by
  obtain rfl : k = k' := le_antisymm (le_of_two_pow_mul_eq h hq') (le_of_two_pow_mul_eq h.symm hq)
  exact ⟨rfl, Nat.eq_of_mul_eq_mul_left (Nat.two_pow_pos k) h⟩

theorem decomp_unique {n k q : Nat} (hn : 2 ≤ n) (h : n - 1 = 2 ^ k * q) (hq : q % 2 = 1) :
    k = (decomp n).1 ∧ q = (decomp n).2 := by
  obtain ⟨heq, hodd⟩ := decomp_spec hn
  exact two_pow_mul_odd_inj (h.symm.trans heq) hq hodd

theorem decomp_even {n : Nat} (hn : 2 ≤ n) (he : n % 2 = 0) : decomp n = (0, n - 1) := by
  obtain ⟨hk, hq⟩ := decomp_unique (k := 0) (q := n - 1) hn (by rw [pow_zero, one_mul]) (by omega)
  exact Prod.ext hk.symm hq.symm

/-- Settles O46: the trailing zeros give the decomposition, it is the only one, and `2 ^ k` divides `n - 1`. -/
theorem decomposition : Obligations.Decomposition := by
  intro n hn
  obtain ⟨heq, hodd⟩ := decomp_spec hn
  have hpos : 1 ≤ (decomp n).2 := by omega
  refine ⟨heq, hodd, hpos, fun k q h hq => decomp_unique hn h hq, fun w hw => ?_, decomp_even hn⟩
  have hle : 2 ^ (decomp n).1 ≤ n - 1 := Nat.le_of_dvd (by omega) (Dvd.intro _ heq.symm)
  exact (Nat.pow_lt_pow_iff_right (a := 2) (by norm_num)).1 (by omega)

/-! ### The test and what it looks at -/

/-- The test answers 0 exactly when the first power is 1 or `n − 1`, or one of its `k − 1` squarings is `n − 1` (R131). -/
theorem mrWitness_eq_zero_iff {n : Nat} (hn : 2 ≤ n) (base : Nat) :
    mrWitness n base = 0 ↔
      base ^ (decomp n).2 % n = 1 ∨ base ^ (decomp n).2 % n = n - 1 ∨
        ∃ i, 1 ≤ i ∧ i < (decomp n).1 ∧ base ^ ((decomp n).2 * 2 ^ i) % n = n - 1 := by
  have hacc : (powRun base (decomp n).2 n).acc = base ^ (decomp n).2 % n := modPow_eq hn base _
  have hsquare : ∀ d, (base ^ (decomp n).2 % n) ^ 2 ^ d % n = base ^ ((decomp n).2 * 2 ^ d) % n := fun d => by
    rw [← Nat.pow_mod, ← pow_mul]
  simp only [mrWitness, trial, hacc, ← or_assoc]
  split
  · rename_i hstop
    exact iff_of_true rfl (.inl hstop)
  · rename_i hgo
    rcases squareLoop_answer (n := n) ((decomp n).1 - 1) (base ^ (decomp n).2 % n) 0 with
      ⟨hans, d, hd1, hdk, hd⟩ | ⟨hans, hall⟩
    · rw [hsquare] at hd
      exact iff_of_true hans (.inr ⟨d, hd1, by omega, hd⟩)
    · refine iff_of_false (by rw [hans]; exact one_ne_zero) ?_
      rintro (hstop | ⟨d, hd1, hdk, hd⟩)
      · exact hgo hstop
      · exact hall d hd1 (by omega) (by rw [hsquare]; exact hd)

theorem mrWitness_eq_one_iff (n base : Nat) : mrWitness n base = 1 ↔ mrWitness n base ≠ 0 := by
  have hans : mrWitness n base = 0 ∨ mrWitness n base = 1 := trial_answer n base
  omega

/-- The test finds a witness exactly when the base proves `n` composite in the words of R131. -/
theorem provesComposite_iff {n : Nat} (hn : 2 ≤ n) (base : Nat) : ProvesComposite n base ↔ mrWitness n base = 1 := by
  rw [mrWitness_eq_one_iff, Ne, mrWitness_eq_zero_iff hn]
  constructor
  · rintro ⟨k, q, heq, hodd, hone, hpred, hsq⟩
    obtain ⟨rfl, rfl⟩ := decomp_unique hn heq hodd
    rintro (h | h | ⟨i, hi1, hik, h⟩)
    exacts [hone h, hpred h, hsq i hi1 hik h]
  · intro h
    obtain ⟨heq, hodd⟩ := decomp_spec hn
    exact ⟨_, _, heq, hodd, fun h1 => h (.inl h1), fun h1 => h (.inr (.inl h1)),
      fun i hi1 hik hi => h (.inr (.inr ⟨i, hi1, hik, hi⟩))⟩

/-- Settles O38: issue and completion at MRWIT's word, the unit delivering the answer of R131's test. -/
theorem mrwit : Obligations.Mrwit := by
  refine ⟨rfl, fun _ hb hn => refusesModulus_of_idle rfl hb rfl hn, fun _ hb hn => starts_of_idle rfl hb fun _ => hn,
    fun s hb hn => ?_⟩
  have hend : EndsWith .mrwit s (mrWitness s.opN s.opA) 0 .none := endsWith_of_busy nofun hb fun _ => hn
  rw [provesComposite_iff hn]
  refine ⟨fun h => h ▸ hend, fun h => ?_⟩
  have h0 : mrWitness s.opN s.opA = 0 := not_not.1 (mt (mrWitness_eq_one_iff _ _).2 h)
  exact h0 ▸ hend

/-! ### Residues: the corner bases, and odd primes -/

theorem natCast_eq_one_iff {n : Nat} (hn : 2 ≤ n) (x : Nat) : (x : ZMod n) = 1 ↔ x % n = 1 := by
  rw [← Nat.cast_one, ZMod.natCast_eq_natCast_iff', Nat.mod_eq_of_lt (a := 1) (by omega)]

theorem natCast_eq_neg_one_iff {n : Nat} (hn : 2 ≤ n) (x : Nat) : (x : ZMod n) = -1 ↔ x % n = n - 1 := by
  have hpred : ((n - 1 : Nat) : ZMod n) = -1 := by rw [Nat.cast_pred (by omega), ZMod.natCast_self, zero_sub]
  rw [← hpred, ZMod.natCast_eq_natCast_iff', Nat.mod_eq_of_lt (a := n - 1) (by omega)]

/-- What the test looks at, among the residues modulo `n`. -/
theorem mrWitness_eq_zero_iff_zmod {n : Nat} (hn : 2 ≤ n) (base : Nat) :
    mrWitness n base = 0 ↔
      (base : ZMod n) ^ (decomp n).2 = 1 ∨ (base : ZMod n) ^ (decomp n).2 = -1 ∨
        ∃ i, 1 ≤ i ∧ i < (decomp n).1 ∧ (base : ZMod n) ^ ((decomp n).2 * 2 ^ i) = -1 := by
  simp only [mrWitness_eq_zero_iff hn, ← Nat.cast_pow, natCast_eq_one_iff hn, natCast_eq_neg_one_iff hn]

/-- A multiple of `n` has only powers that are 0, so it "proves" every `n` composite (R132). -/
theorem mrWitness_of_dvd {n base : Nat} (hn : 2 ≤ n) (h : n ∣ base) : mrWitness n base = 1 := by
  have : Fact (1 < n) := ⟨hn⟩
  obtain ⟨-, hodd⟩ := decomp_spec hn
  have hq : (decomp n).2 ≠ 0 := by omega
  have hbase : (base : ZMod n) = 0 := (ZMod.natCast_eq_zero_iff base n).2 h
  rw [mrWitness_eq_one_iff, Ne, mrWitness_eq_zero_iff_zmod hn, hbase, zero_pow hq]
  have hpred : (0 : ZMod n) ≠ -1 := (neg_ne_zero.2 one_ne_zero).symm
  rintro (h0 | h0 | ⟨i, -, -, h0⟩)
  · exact zero_ne_one h0
  · exact hpred h0
  · rw [zero_pow (Nat.mul_ne_zero hq (Nat.two_pow_pos i).ne')] at h0
    exact hpred h0

/-- For even `n` there is one power, `base ^ (n − 1)`, and no squaring (R132). -/
theorem mrWitness_even {n : Nat} (hn : 2 ≤ n) (he : n % 2 = 0) (base : Nat) :
    mrWitness n base = 0 ↔ base ^ (n - 1) % n = 1 ∨ base ^ (n - 1) % n = n - 1 := by
  rw [mrWitness_eq_zero_iff hn, decomp_even hn he]
  have hnone : ¬∃ i, 1 ≤ i ∧ i < 0 ∧ base ^ ((n - 1) * 2 ^ i) % n = n - 1 := fun ⟨_, _, hi, _⟩ => absurd hi (by omega)
  simp only [hnone, or_false]

/-- Settles O47: the residues 0, 1 and -1 by their powers, the odd power of -1 being -1; modulo 2 there are no others. -/
theorem witnessCorners : Obligations.WitnessCorners := by
  intro n base hn
  have hzero : base % n = 0 → mrWitness n base = 1 := fun h => mrWitness_of_dvd hn (Nat.dvd_of_mod_eq_zero h)
  have hone : base % n = 1 → mrWitness n base = 0 := fun h => by
    rw [mrWitness_eq_zero_iff_zmod hn, (natCast_eq_one_iff hn base).2 h, one_pow]
    exact .inl rfl
  have hpred : base % n = n - 1 → mrWitness n base = 0 := fun h => by
    obtain ⟨-, hodd⟩ := decomp_spec hn
    rw [mrWitness_eq_zero_iff_zmod hn, (natCast_eq_neg_one_iff hn base).2 h, (Nat.odd_iff.2 hodd).neg_one_pow]
    exact .inr (.inl rfl)
  refine ⟨hzero, hone, hpred, ?_, fun _ he => mrWitness_even hn he base⟩
  rintro rfl
  rcases Nat.mod_two_eq_zero_or_one base with h | h
  · rw [hzero h, h]
  · rw [hone h, h]

/-- Where only 1 and -1 square to 1, a root of 1 of order a power of two is 1 or has -1 among its squarings. -/
theorem eq_one_or_exists_two_pow_eq_neg_one {R : Type} [Ring R] [NoZeroDivisors R] {x : R} :
    ∀ k : Nat, x ^ 2 ^ k = 1 → x = 1 ∨ ∃ i, i < k ∧ x ^ 2 ^ i = -1
  | 0, h => .inl (by rwa [pow_zero, pow_one] at h)
  | k + 1, h => by
    rw [pow_succ, pow_mul, sq, mul_self_eq_one_iff] at h
    rcases h with h | h
    · rcases eq_one_or_exists_two_pow_eq_neg_one k h with h1 | ⟨i, hi, h1⟩
      · exact .inl h1
      · exact .inr ⟨i, by omega, h1⟩
    · exact .inr ⟨k, by omega, h⟩

/-- Settles O48: the power `base ^ q` is a root of 1 of order `2 ^ k` by Fermat, in the field of residues modulo `p`. -/
theorem primeHasNoWitness : Obligations.PrimeHasNoWitness := by
  intro p base hp h2 hdvd
  have : Fact p.Prime := ⟨hp⟩
  obtain ⟨heq, -⟩ := decomp_spec hp.two_le
  have hfermat : ((base : ZMod p) ^ (decomp p).2) ^ 2 ^ (decomp p).1 = 1 := by
    rw [← pow_mul, mul_comm, ← heq]
    exact ZMod.pow_card_sub_one_eq_one (mt (ZMod.natCast_eq_zero_iff base p).1 hdvd)
  rw [mrWitness_eq_zero_iff_zmod hp.two_le]
  rcases eq_one_or_exists_two_pow_eq_neg_one _ hfermat with h | ⟨i, hi, h⟩
  · exact .inl h
  · rcases Nat.eq_zero_or_pos i with rfl | hpos
    · exact .inr (.inl (by rwa [pow_zero, pow_one] at h))
    · exact .inr (.inr ⟨i, hpos, hi, by rw [pow_mul]; exact h⟩)

end Sys2Proof.Machine
end

section
/-! Drawing bases and the multi-base test (R135 to R141): a drawn base is the first unused value, a test's bases are the
ones drawn word by word and end with a witness or with the rounds, so they are a run of R140's relation. -/
namespace Sys2Proof.Machine
open Sys2Proof.Safety

/-! ### One drawn base -/

/-- The values R137 steps through from a word on do not repeat within `n − 2` steps. -/
theorem stepped_inj {m r e e' : Nat} (he : e < m) (he' : e' < m) (h : (r + e) % m = (r + e') % m) : e = e' :=
  (Nat.ModEq.add_left_cancel' r h).eq_of_lt_of_lt he he'

/-- As many steps as there are used values cannot all, and the value they lead to, be used. -/
theorem exists_step_unused {n : Nat} {used : List Nat} (hlen : used.length < n - 2) (r : Nat) :
    ∃ e, e ≤ used.length ∧ 2 + (r + e) % (n - 2) ∉ used := by
  by_contra! hall
  have hcard : (Finset.range (used.length + 1)).card ≤ used.toFinset.card := by
    refine Finset.card_le_card_of_injOn (fun e => 2 + (r + e) % (n - 2)) (fun e he => ?_) fun e he e' he' h => ?_
    · rw [Finset.coe_range, Set.mem_Iio] at he
      exact List.mem_toFinset.2 (hall e (by omega))
    · rw [Finset.coe_range, Set.mem_Iio] at he he'
      exact stepped_inj (by omega) (by omega) (Nat.add_left_cancel h)
  rw [Finset.card_range] at hcard
  have := used.toFinset_card_le
  omega

/-- Settles O50: the steps pass over used values only, and when they have reached their bound the value they lead to is the
one left unused. -/
theorem drawnBase : Obligations.DrawnBase := by
  intro n used r hn hlen
  obtain ⟨d, hd, heq, hbefore, hend⟩ := stepUnused_spec hn used r used.length 0
  simp only [Nat.add_zero] at heq hbefore hend
  have hdraw : drawBase n used r = 2 + (r + d) % (n - 2) := heq
  have hlt := drawBase_lt hn used r
  have hunused : 2 + (r + d) % (n - 2) ∉ used := by
    obtain ⟨e, he, hmem⟩ := exists_step_unused hlen r
    rcases Nat.lt_trichotomy e d with h | rfl | h
    · exact absurd (hbefore e h) hmem
    · exact hmem
    · exact hend (by omega)
  exact ⟨by omega, by omega, hdraw ▸ hunused, d, hd, hdraw, hbefore⟩

/-! ### The bases of a test -/

/-- After `used`, each of `bases` is the one R137 draws from its own word of the stream, the first from word `c`. -/
def DrawnFrom (n : Nat) (rho : Nat → Nat) (c : Nat) (used bases : List Nat) : Prop :=
  ∀ j (h : j < bases.length), bases[j] = drawBase n (used ++ bases.take j) (rho (c + j))

/-- A test of `rounds` rounds answers `v` after `bases` (R136): all rounds passed, or the last base was a witness. -/
def RoundsEnd (n rounds : Nat) (bases : List Nat) (v : Nat) : Prop :=
  (bases.length = rounds ∧ (∀ b ∈ bases, mrWitness n b = 0) ∧ v = 1) ∨
    ∃ front b, bases = front ++ [b] ∧ (∀ c ∈ front, mrWitness n c = 0) ∧ mrWitness n b = 1 ∧ v = 0

theorem drawnFrom_cons {n : Nat} {rho : Nat → Nat} {c : Nat} {used bases : List Nat}
    (h : DrawnFrom n rho (c + 1) (used ++ [drawBase n used (rho c)]) bases) :
    DrawnFrom n rho c used (drawBase n used (rho c) :: bases)
  | 0, _ => by simp
  | j + 1, hj => by
    have hrest := h j (Nat.lt_of_succ_lt_succ hj)
    rw [List.append_assoc, Nat.add_assoc, Nat.add_comm 1 j] at hrest
    exact hrest

theorem roundsEnd_cons {n rounds b v : Nat} {bases : List Nat} (hb : mrWitness n b = 0)
    (h : RoundsEnd n rounds bases v) : RoundsEnd n (rounds + 1) (b :: bases) v := by
  rcases h with ⟨hlen, hall, hv⟩ | ⟨front, w, rfl, hall, hw, hv⟩
  · exact .inl ⟨by rw [List.length_cons, hlen], List.forall_mem_cons.2 ⟨hb, hall⟩, hv⟩
  · exact .inr ⟨b :: front, w, rfl, List.forall_mem_cons.2 ⟨hb, hall⟩, hw, hv⟩

/-- What the rounds left of a test do: they draw bases, one word each, and end as R136 says. -/
theorem multiLoop_spec (n : Nat) (rho : Nat → Nat) : ∀ (left : Nat) (m : Multi),
    ∃ bases, DrawnFrom n rho m.cursor m.used bases ∧ bases.length ≤ left ∧
      (multiLoop left n rho m).cursor = m.cursor + bases.length ∧
      RoundsEnd n left bases (multiLoop left n rho m).answer
  | 0, m => ⟨[], nofun, le_refl 0, rfl, .inl ⟨rfl, nofun, rfl⟩⟩
  | left + 1, m => by
    unfold multiLoop
    dsimp only
    split
    · rename_i hwit
      exact ⟨[drawBase n m.used (rho m.cursor)], drawnFrom_cons nofun, by simp, rfl, .inr ⟨[], _, rfl, nofun, hwit, rfl⟩⟩
    · rename_i hpass
      obtain ⟨bases, hdrawn, hlen, hcur, hend⟩ := multiLoop_spec n rho left
        { m with
          j := m.j + 1, used := m.used ++ [drawBase n m.used (rho m.cursor)], cursor := m.cursor + 1,
          work := storeTrial (trial n (drawBase n m.used (rho m.cursor))) m.work }
      have hzero : mrWitness n (drawBase n m.used (rho m.cursor)) = 0 := (trial_answer _ _).resolve_right hpass
      refine ⟨_ :: bases, drawnFrom_cons hdrawn, Nat.succ_le_succ hlen, ?_, roundsEnd_cons hzero hend⟩
      rw [hcur, List.length_cons, Nat.add_assoc, Nat.add_comm 1]

/-- Bases drawn while fewer than `n − 2` are used lie in `[2, n − 1]` and do not repeat (R137). -/
theorem drawnFrom_distinct {n : Nat} {rho : Nat → Nat} {c : Nat} {bases : List Nat}
    (h : DrawnFrom n rho c [] bases) (hlen : bases.length ≤ n - 2) :
    bases.Nodup ∧ ∀ b ∈ bases, 2 ≤ b ∧ b ≤ n - 1 := by
  have hdraw : ∀ j (hj : j < bases.length), 2 ≤ bases[j] ∧ bases[j] ≤ n - 1 ∧ bases[j] ∉ bases.take j := fun j hj => by
    have hj' : (bases.take j).length < n - 2 := by rw [List.length_take]; omega
    obtain ⟨hlo, hhi, hnew, -⟩ := drawnBase n (bases.take j) (rho (c + j)) (by omega) hj'
    rw [h j hj, List.nil_append]
    exact ⟨hlo, hhi, hnew⟩
  constructor
  · refine List.pairwise_iff_getElem.2 fun i j hi hj hij heq => ?_
    obtain ⟨-, -, hnew⟩ := hdraw j hj
    exact hnew (heq ▸ List.mem_take_iff_getElem.2 ⟨i, by omega, rfl⟩)
  · intro b hb
    obtain ⟨j, hj, rfl⟩ := List.mem_iff_getElem.1 hb
    obtain ⟨hlo, hhi, -⟩ := hdraw j hj
    exact ⟨hlo, hhi⟩

/-- A multi-base test is a run of R140's relation over the bases its words give (R136, R141). -/
theorem mrMulti_run (n rounds : Nat) (rho : Nat → Nat) (c : Nat) (w : Working) :
    ∃ bases, DrawnFrom n rho c [] bases ∧ (mrMulti n rounds rho c w).cursor = c + bases.length ∧
      MultiRun n rounds bases (mrMulti n rounds rho c w).answer := by
  obtain ⟨bases, hdrawn, hlen, hcur, hend⟩ := multiLoop_spec n rho (effectiveRounds n rounds)
    { answer := 1, j := 0, used := [], cursor := c, work := w }
  obtain ⟨hnodup, hrange⟩ := drawnFrom_distinct hdrawn (hlen.trans (Nat.min_le_right _ _))
  exact ⟨bases, hdrawn, hcur, hnodup, hrange, hlen, hend⟩

/-! ### MRMULTI -/

/-- When the random source answers whatever the command draws, the engine's step is enabled (R45). -/
theorem waitsForSource_of_sourceReady {s : State} (h : SourceReady s) : waitsForSource s = false := by
  rw [← Bool.not_eq_true, waitsForSource_iff]
  rintro ⟨-, hsilent, hpos⟩
  rcases h with h | h
  · rw [h] at hsilent; cases hsilent
  · omega

/-- Settles O39: issue at MRMULTI's words, and a completion with what its unit delivers, a run of R140's relation. -/
theorem mrmulti : Obligations.Mrmulti := by
  have hwf : ∀ {rounds}, rounds < 256 → (Instr.mrmulti rounds).wellFormed = true := fun h => decide_eq_true h
  refine ⟨fun rounds h => ?_, fun s rounds h hb hn => refusesModulus_of_idle (hwf h) hb rfl hn,
    fun s rounds h hb hn => ⟨starts_of_idle (hwf h) hb fun _ => hn, fieldRounds_encode_mrmulti (hwf h)⟩,
    fun s rounds hb hn hready => ?_⟩
  · rw [encode, BitVec.toNat_ofNat]
    omega
  · obtain ⟨bases, hdrawn, hcur, hrun⟩ := mrMulti_run s.opN s.rnds.toNat s.rho s.cursor s.work
    refine ⟨(unitOf (.mrmulti rounds) s).work, _, bases, ?_, hrun, hdrawn⟩
    rw [exec_busy hb (fun _ => hn) fun _ => waitsForSource_of_sourceReady hready, ← hcur]
    rfl

/-- No run of R140's relation denies a prime: its bases are no multiples of it, and 2 has none (R140). -/
theorem multiRun_prime {p rounds v : Nat} {bases : List Nat} (hp : p.Prime) (h : MultiRun p rounds bases v) : v = 1 := by
  obtain ⟨-, hrange, -, ⟨-, -, hv⟩ | ⟨front, b, rfl, -, hwit, -⟩⟩ := h
  · exact hv
  · obtain ⟨hlo, hhi⟩ := hrange b (by simp)
    have hzero := primeHasNoWitness p b hp (by omega) (Nat.not_dvd_of_pos_of_lt (by omega) (by omega))
    exact absurd (hwit.symm.trans hzero) one_ne_zero

/-- Settles O49: the completion's answer is that of a run of R140's relation. -/
theorem primeNeverDenied : Obligations.PrimeNeverDenied := by
  intro s t rounds hb hready hp ht
  obtain ⟨-, -, -, hcomplete⟩ := mrmulti
  obtain ⟨w, v, bases, hexec, hrun, -⟩ := hcomplete s rounds hb hp.two_le hready
  rw [hexec] at ht
  obtain rfl := Host.Outcome.next.inj ht
  exact multiRun_prime hp hrun

/-! ### Corner cases -/

theorem mrMulti_prime {p : Nat} (hp : p.Prime) (rounds : Nat) (rho : Nat → Nat) (c : Nat) (w : Working) :
    (mrMulti p rounds rho c w).answer = 1 :=
  have ⟨_, _, _, hrun⟩ := mrMulti_run p rounds rho c w
  multiRun_prime hp hrun

/-- With no effective round a test passes and takes no word (R135, R136). -/
theorem mrMulti_no_round {n rounds : Nat} (h : effectiveRounds n rounds = 0) (rho : Nat → Nat) (c : Nat) (w : Working) :
    (mrMulti n rounds rho c w).answer = 1 ∧ (mrMulti n rounds rho c w).cursor = c := by
  rw [mrMulti, h]
  exact ⟨rfl, rfl⟩

/-- No run of R140's relation over both bases of 4 passes: base 2 is a witness (R139). -/
theorem multiRun_four {rounds v : Nat} {bases : List Nat} (hr : 2 ≤ rounds) (h : MultiRun 4 rounds bases v) : v = 0 := by
  obtain ⟨hnodup, hrange, -, ⟨hlen, hpass, -⟩ | ⟨-, -, -, -, -, hv⟩⟩ := h
  · have hthree : ∀ b ∈ bases, b = 3 := fun b hb => by
      obtain ⟨hlo, hhi⟩ := hrange b hb
      have h2 : b ≠ 2 := by rintro rfl; exact absurd (hpass 2 hb) (by decide)
      omega
    have hle : bases.length ≤ 1 :=
      (hnodup.subperm fun b hb => List.mem_singleton.2 (hthree b hb)).length_le
    omega
  · exact hv

/-- The one base of a one-round test of 4 is 2 for an even word and 3, a liar, for an odd one (R139). -/
theorem mrMulti_four_one (rho : Nat → Nat) (c : Nat) (w : Working) :
    (mrMulti 4 1 rho c w).answer = if rho c % 2 = 0 then 0 else 1 := by
  have hdraw : drawBase 4 [] (rho c) = 2 + rho c % 2 := rfl
  have h2 : (trial 4 2).answer = 1 := by decide
  have h3 : (trial 4 3).answer = 0 := by decide
  have hround : effectiveRounds 4 1 = 1 := rfl
  rw [mrMulti, hround, multiLoop]
  dsimp only
  rw [hdraw]
  rcases Nat.mod_two_eq_zero_or_one (rho c) with h | h
  · simp [h, h2]
  · simp [h, h3, multiLoop]

/-- Settles O51: tests without a round, primes, and the two bases of 4. -/
theorem multiCorners : Obligations.MultiCorners := by
  intro rho c rounds w
  refine ⟨fun n => mrMulti_no_round (Nat.zero_min _) rho c w, mrMulti_no_round (Nat.min_zero _) rho c w,
    mrMulti_prime Nat.prime_three rounds rho c w, mrMulti_prime Nat.prime_five rounds rho c w, fun hr => ?_,
    mrMulti_four_one rho c w⟩
  obtain ⟨bases, -, -, hrun⟩ := mrMulti_run 4 rounds rho c w
  exact multiRun_four hr hrun

end Sys2Proof.Machine
end

section
/-! KMAU never halts (R221, R223): a turn has no next state only where a command completes outside its domain or a latch
names no command, and a safe state has neither. -/
namespace Sys2Proof.Machine
open Sys2Proof.Safety

/-- A command goes on if it is idle or in its domain (R42, R43, R45). -/
theorem exec_goesOn {i : Instr} {s : State} (hd : s.status.busy = true → needsModulus i = true → 2 ≤ s.opN) :
    ∃ t, exec i s = .next t := by
  rw [exec_eq]
  split
  · exact ⟨_, rfl⟩
  · cases hb : s.status.busy with
    | false => exact ⟨_, runCommand_idle hb⟩
    | true => exact ⟨_, runCommand_busy hb (hd hb)⟩

/-- A safe state's engine turn passes or completes a command in its domain (R42, R48). -/
theorem goesOn_of_engineTurn {s : State} (hs : Inv s) (hn : nextTurn s = engineTurn s) : goesOn s := by
  rcases engineTurn_cases s with ⟨-, ht⟩ | ⟨i, -, hb, hi, ht⟩ | ⟨-, hb, hi, -⟩
  · exact ⟨_, step_settled (hn.trans ht)⟩
  · obtain ⟨j, -, hj, hd⟩ := hs.running hb
    obtain rfl : i = j := Option.some.inj (hi.symm.trans hj)
    rw [goesOn, step_run (hn.trans ht)]
    exact exec_goesOn fun _ => hd
  · obtain ⟨j, -, hj, -⟩ := hs.running hb
    rw [hi] at hj; cases hj

/-- A host access goes on from every state, safe or not: it runs a command only while idle (R43, R52, R189). -/
theorem goesOn_of_accessTurn {s : State} {a : Access} (hn : nextTurn s = accessTurn a s) : goesOn s := by
  have hsettled : ∀ {u : State}, accessTurn a s = .settled u → goesOn s := fun ht => ⟨_, step_settled (hn.trans ht)⟩
  rcases accessTurn_cases a s with ⟨-, ht⟩ | ⟨-, ht⟩ | ⟨-, ht⟩ | ⟨_, -, -, -, -, ht⟩ | ⟨v, -, -, ht⟩ |
    ⟨_, _, -, -, -, -, -, ht⟩
  · exact hsettled ht
  · exact hsettled ht
  · exact hsettled ht
  · exact hsettled ht
  · rcases cmdWrite_cases v s with ⟨-, hc⟩ | ⟨-, -, hc⟩ | ⟨i, hb, -, hc⟩
    · exact hsettled (ht.trans hc)
    · exact hsettled (ht.trans hc)
    · exact ⟨_, (step_run (hn.trans (ht.trans hc))).trans (exec_idle hb)⟩
  · exact hsettled ht

/-- Settles O54, turn by turn: only the engine's needs the invariant. -/
theorem safeGoesOn : Obligations.SafeGoesOn := by
  intro s hs
  rcases nextTurn_cases s with ⟨-, hn⟩ | ⟨a, -, hn⟩ | ⟨b, -, hn⟩ | ⟨b, -, hn⟩
  · exact goesOn_of_engineTurn hs hn
  · exact goesOn_of_accessTurn hn
  · exact ⟨_, step_settled hn⟩
  · exact ⟨_, step_settled hn⟩

end Sys2Proof.Machine
end

section
/-! The two resets (R210 to R212): each is `resetHardware` after the turn, and they differ in the `rst` line and the port's
answer alone; and what passes while `rst` is asserted. -/
namespace Sys2Proof.Machine
open Sys2Proof.Safety

/-- An access presented while `rst` is asserted is gone unserved (R210). -/
theorem step_access_held {s : State} {a : Access} (hr : s.rstLine = true) (h : s.agenda.head? = some (.access a)) :
    step s = .next (answer .notServed (advance s)) :=
  step_settled ((nextTurn_access h).trans (accessTurn_held hr))

/-- The engine's turn passes while `rst` is asserted, whatever `BUSY` is (R210). -/
theorem step_engine_held {s : State} (hr : s.rstLine = true) (h : s.agenda = [] ∨ s.agenda.head? = some .engine) :
    step s = .next (advance s) :=
  step_settled ((nextTurn_engine h).trans (if_pos hr))

/-- Asserting `rst` resets the hardware and raises the line (R210). -/
theorem step_assertRst {s : State} (h : s.agenda.head? = some (.rst true)) :
    step s = .next { resetHardware (advance s) with rstLine := true } := step_rst h

/-- A served write to `CTRL` with bit 1 set resets the hardware; it is served only with the line released (R211). -/
theorem step_softReset {s : State} {v : BusWord} (hv : v.getLsbD 1 = true)
    (h : HostTurn s (writeAt s.params 0x008 v)) :
    step s = .next { resetHardware (advance s) with rstLine := false, port := .written } := by
  rw [step_writeCtrl h, writeCtrl, if_pos hv, ← h.1]; rfl

/-- Taking a turn leaves the turns after it. -/
theorem advance_of_cons {s : State} {e : Event} {rest : List Event} (h : s.agenda = e :: rest) :
    advance s = { s with agenda := rest } := by
  rw [advance, h, List.tail_cons]

/-- Settles O9: the reset that asserting `rst` is, the turns that pass while it is held, its release, and the invariant. -/
theorem hardwareReset : Obligations.HardwareReset := by
  refine ⟨fun s h => ?_, fun s a hr h => step_access_held hr h, fun s hr h => step_engine_held hr h,
    fun s h => step_rst h, fun s hs hr => hs.heldInReset hr⟩
  obtain ⟨-, -, hcursor⟩ := cursorAfterReset_bounds (advance s)
  exact ⟨_, step_assertRst h, resetValues_resetHardware (advance s) true s.port, rfl, rfl, fun hb => hcursor (.inl hb)⟩

/-- Settles O10: both resets are `resetHardware` of one state, the one with this turn taken; `SRST` reads 0 as a
reserved bit does. -/
theorem softReset : Obligations.SoftReset := by
  intro s v rest hr hv hag
  obtain ⟨-, -, -, hreserved, -⟩ := reservedLocations
  have hturn : HostTurn s (writeAt s.params 0x008 v) := ⟨hr, by rw [hag]; rfl⟩
  refine ⟨_, _, step_softReset hv hturn, step_assertRst rfl, resetValues_resetHardware _ _ _, ?_,
    hreserved _ 1 (le_refl 1)⟩
  rw [advance_of_cons hag]; rfl

/-- Settles O11: a reset of either kind zeroes the results and the flags, and moves the cursor within R212's bounds. -/
theorem abandonedCommand : Obligations.AbandonedCommand := by
  intro s _ h
  obtain ⟨r, p, ht⟩ := step_reset h
  obtain ⟨hge, hle, hcursor⟩ := cursorAfterReset_bounds (advance s)
  exact ⟨_, ht, rfl, rfl, rfl, rfl, rfl, rfl, hge, hle, fun hop => hcursor (.inr hop)⟩

end Sys2Proof.Machine
end
